-- ==== Sys2Proof/Word.lean ====
section
/-! DEFINITION. Words, bytes and fixed-size arrays: the plainest types of the model. -/

namespace Sys2Proof

/-- A byte of the stream, of a buffer or of a statistics bin (R12). -/
abbrev Byte := BitVec 8

/-- A host register (R10, R32). -/
abbrev Word := BitVec 32

/-- Entry `i` of an array, `d` outside it. -/
def vget {α : Type} {n : Nat} (v : Vector α n) (i : Nat) (d : α) : α := (v[i]?).getD d

/-- The array with entry `i` set to `x`, unchanged where `i` is outside it. -/
def vset {α : Type} {n : Nat} (v : Vector α n) (i : Nat) (x : α) : Vector α n := v.setIfInBounds i x

/-- Entry `i` of a list, `d` outside it. -/
def lget {α : Type} (l : List α) (i : Nat) (d : α) : α := (l[i]?).getD d

/-- `ceil (a / b)` of R13, and 0 for `b = 0`. -/
def ceilDiv (a b : Nat) : Nat := (a + b - 1) / b

end Sys2Proof
end

