-- ==== Sys2Proof/Machine/Data.lean ====
section
/-! DEFINITION. The records of the engine's scratch arena (R37, R41, R45, R52, R106), the blocks they hold, and the
encoder's state (R53). -/

namespace Sys2Proof.Machine

/-- One 8x8 block: 64 coefficients in zigzag order (R45), or 64 samples in row-major order (R443). -/
abbrev Block := Vector Int 64

/-- One quantization table: 64 unsigned 16-bit entries in zigzag order (R42). -/
abbrev QTable := Vector (BitVec 16) 64

/-- One codeword of a Huffman table: its value, its length in bits (1 to 16) and its symbol (R290). -/
structure Code where
  code : Nat
  len  : Nat
  sym  : Byte
  deriving DecidableEq, Repr, Inhabited

/-- A Huffman decode trie, given by its canonical code list (R41); `bytes` is its arena allocation (R106). -/
structure HuffTable where
  codes : List Code
  bytes : Nat
  deriving DecidableEq, Repr, Inhabited

/-- One restart interval's byte range (R37, R151). -/
structure Interval where
  off : Nat
  len : Nat
  deriving DecidableEq, Repr, Inhabited

/-- One scan record of the layout (R37, R205). -/
structure ScanRec where
  sosOff    : Nat
  intervals : List Interval
  deriving DecidableEq, Repr, Inhabited

/-- One frame record of the layout (R37, R203); its flags are functions of `n` (R133). -/
structure FrameRec where
  sofOff : Nat
  n      : BitVec 4
  scans  : List ScanRec
  deriving DecidableEq, Repr, Inhabited

/-- The markers recorded in AUX (R37, R213; DAC by conflict C2). -/
inductive AuxKind where
  | dht | dqt | dac | dri | dnl | exp
  deriving DecidableEq, Repr, Inhabited

/-- One AUX entry: a table-defining marker and its file offset (R37). -/
structure AuxRec where
  off    : Nat
  marker : AuxKind
  deriving DecidableEq, Repr, Inhabited

/-- The marker layout LAYOUT (R37). -/
structure Layout where
  frames   : List FrameRec
  aux      : List AuxRec
  jfifOff  : Option Nat
  exifOff  : Option Nat
  adobeOff : Option Nat
  dhpOff   : Option Nat
  deriving DecidableEq, Repr, Inhabited

/-- A coefficient or sample plane (R45): `bw x bh` blocks in raster order, or `(sw+1) x (sh+1)` samples
in raster order with the border in row 0 and column 0 (R260). -/
inductive Plane where
  | dct (bw bh : Nat) (blocks : List Block)
  | lossless (sw sh : Nat) (samples : List (BitVec 16))
  deriving DecidableEq, Repr, Inhabited

/-- A plane of reconstructed or accumulated samples, `w x h`, row-major (R440, R52). -/
structure Samples where
  w    : Nat
  h    : Nat
  data : List Int
  deriving DecidableEq, Repr, Inhabited

/-- One hierarchical accumulator plane, matched across frames by component ID (R52, R470). -/
structure AccPlane where
  id    : Byte
  plane : Samples
  deriving DecidableEq, Repr, Inhabited

/-- What the engine keeps in the scratch arena (R100, R106): the layout, the tries, the planes and the accumulators. -/
structure Arena where
  used     : Nat
  layout   : Layout
  dcTables : Vector (Option HuffTable) 4
  acTables : Vector (Option HuffTable) 4
  planes   : Vector (Option Plane) 4
  rs       : Vector (Option Samples) 4
  acc      : List AccPlane
  deriving DecidableEq, Repr, Inhabited

/-- The encoder state (R53); tables and frequencies in the order DC-Y, AC-Y, DC-C, AC-C (R498, R512). -/
structure Enc where
  w      : Nat
  h      : Nat
  yPlane : List Rat
  cb     : List Rat
  cr     : List Rat
  qy     : Vector Nat 64
  qc     : Vector Nat 64
  yBlocks  : List Block
  cbBlocks : List Block
  crBlocks : List Block
  freq   : Vector (Vector Nat 256) 4
  ehufco : Vector (Vector Nat 256) 4
  ehufsi : Vector (Vector Nat 256) 4
  pred   : Vector Int 3
  obuf   : List Bool
  opos   : Nat
  deriving DecidableEq, Repr, Inhabited

end Sys2Proof.Machine
end

