-- ==== Sys2Proof/Config.lean ====
section
/-! DEFINITION. The open parameters of R11 as plain data, and the values the spec leaves free. A parameter is its reference
value or an unknown value number `n`: an opaque constant says what the unknown value is, so a statement about every
parameter value is a statement about every engine (log 3). -/

namespace Sys2Proof.Config

open Sys2Proof.Machine

/-- A parameter that R11 gives a reference value: the reference, or some other value (log 3). -/
inductive Param where
  | reference
  | other (n : Nat)
  deriving DecidableEq, Repr, Inhabited

/-- ARITH_TRAILING (R11, R267, D9). -/
inductive Trailing where
  | ignore
  | reject
  deriving DecidableEq, Repr, Inhabited

/-- ALLOC_BYTES and the other allocation sizes (R106, R107, D32): the model's own count of bytes, or some other (log 5). -/
inductive AllocParam where
  | modelBytes
  | other (n : Nat)
  deriving DecidableEq, Repr, Inhabited

/-- The length bytes of the encoder's SOS(Cb,Cr): 00 0C as the table of R512 has them, or 00 0A as the layout of R135 asks
(log 33). -/
inductive SosLength where
  | table
  | layout
  deriving DecidableEq, Repr, Inhabited

/-- The open parameters of R11, the register block's base (R100), and the reading of R512 (log 33).
SIZE_LIMIT, the remaining one, is a host register. -/
structure Params where
  idct          : Param
  fdctQ         : Param
  upsample      : Param
  transfer      : Param
  scale16       : Param
  alphaAbsent   : BitVec 16
  expand        : Param
  llArithCtx    : Param
  huffLimit     : Param
  quantHeur     : Param
  arithTrailing : Trailing
  allocBytes    : AllocParam
  admitLossless : Bool
  sosChroma     : SosLength
  lpjBase       : Word
  deriving DecidableEq, Repr, Inhabited

/-- The transfer functions of R451, and those of an extended TRANSFER parameter. -/
inductive TransferKind where
  | gray | grayAlpha | rgb | bgr | rgba | abgr | ycbcr | ycck | cmyk
  | other (code : Nat)
  deriving DecidableEq, Repr, Inhabited

/-- The four channels of one pixel before rounding (R453); no alpha means ALPHA_ABSENT. -/
structure Channels where
  r : Rat
  g : Rat
  b : Rat
  a : Option Rat
  deriving DecidableEq, Repr, Inhabited

/-- What an allocation is for (R106): a layout record, a trie of `m` codes, the planes of a frame of the process `n[1:0]` (R107,
R133), the reconstructed samples of a component, an accumulator plane, the encoder's planes. -/
inductive AllocKind where
  | layoutRecord
  | trie (m : Nat)
  | planes (process x y nf : Nat) (factors : List (Nat × Nat))
  | samples (w h : Nat)
  | accumulator (w h : Nat)
  | encoder (w h : Nat)
  deriving DecidableEq, Repr, Inhabited

/-- An unknown IDCT (R443, D19): precision, differential frame, dequantized block in zigzag order; 64 samples row by row. -/
opaque idctOther : Nat → Nat → Bool → Block → Block
/-- An unknown colour conversion inside FDCT_Q (R492, D30): the 16-bit R, G, B; the exact Y, Cb, Cr. -/
opaque colourOther : Nat → Nat → Nat → Nat → Rat × Rat × Rat
/-- An unknown forward DCT with quantization (R496, D30): 64 samples row by row, the table in zigzag order; a zigzag block. -/
opaque fdctOther : Nat → List Rat → Vector Nat 64 → Block
/-- An unknown UPSAMPLE (R450, D20): (HMAX, H, VMAX, V), the samples, the extent, the pixel. -/
opaque upsampleOther : Nat → Nat × Nat × Nat × Nat → Samples → Nat × Nat → Nat × Nat → Rat
/-- An unknown TRANSFER decision table (R451, D21): IDs, JFIF seen, Adobe seen, Adobe transform code; none means no match. -/
opaque transferSelectOther : Nat → List Byte → Bool → Bool → Option Byte → Option Nat
/-- The transfer functions an unknown TRANSFER table adds (R453, U19): number, code, P, component values. -/
opaque transferApplyOther : Nat → Nat → Nat → List Rat → Channels
/-- An unknown SCALE16 (R454, D22): precision, value. -/
opaque scale16Other : Nat → Nat → Nat → BitVec 16
/-- An unknown EXPAND along one axis (R473, D24): the row; entry `i` of the expanded row. -/
opaque expandOther : Nat → List Int → Nat → Int
/-- An unknown LL_ARITH_CTX (R420, D25): Da, Db, L, U; (s0, xbase). -/
opaque llArithCtxOther : Nat → Int → Int → Nat → Nat → Nat × Nat
/-- An unknown HUFF_LIMIT (R502, D28): lengths, frequencies, maximum; the limited lengths. -/
opaque huffLimitOther : Nat → List Nat → List Nat → Nat → List Nat
/-- The heuristic score of an unknown QUANT_HEUR (R495, D29): number, W, H and the 16-bit R, G, B of every pixel. -/
opaque quantScoreOther : Nat → Nat → Nat → List (Nat × Nat × Nat) → Nat
/-- The tables an unknown QUANT_HEUR has for a score (R495, D29): number, score, chrominance, zigzag position; the entry. -/
opaque quantEntryOther : Nat → Nat → Bool → Nat → Nat
/-- Unknown allocation sizes (R106, R107, D32). -/
opaque allocOther : Nat → AllocKind → Nat

/-- Free value: the `k`-th byte a read of unspecified content draws (R111, R112, R550, log 10). -/
opaque freeByte : Nat → Byte
/-- Free value: the `k`-th integer drawn where a value left the signed 32-bit range (R548, log 7). -/
opaque freeInt : Nat → Int
/-- Free value: the arena's content as the `k`-th draw reads it after a breach of the host discipline (R111, R550, log 15). -/
opaque freeArena : Nat → Arena
/-- Free value: the encoder's state as the `k`-th draw reads it after a breach of the host discipline (R111, R550, log 15). -/
opaque freeEnc : Nat → Enc

end Sys2Proof.Config
end

