-- ==== Sys2Proof/Machine/State.lean ====
section
/-! DEFINITION. The state of LPJ as plain data: the host registers (R32), the engine registers (R33-R53), the scratch arena, the
host memory, and the state after hardware reset (R580). -/

namespace Sys2Proof.Machine

/-- The four error kinds (R540). -/
inductive ErrKind where
  | formatError
  | imageDataError
  | imageTooLarge
  | outOfMemory
  deriving DecidableEq, Repr, Inhabited

/-- The host register block, one field per word (R32). -/
structure HostRegs where
  ctrl      : Word
  status    : Word
  errcode   : Word
  inBase    : Word
  inLen     : Word
  outBase   : Word
  outLen    : Word
  scrBase   : Word
  scrLen    : Word
  sizeLimit : Word
  imgWidth  : Word
  imgHeight : Word
  outUsed   : Word
  exifOff   : Word
  exifLen   : Word
  info      : Word
  deriving DecidableEq, Repr

/-- The Huffman bit reader and the stream position (R33, R47). -/
structure Reader where
  bp     : Nat
  segEnd : Nat
  bitBuf : Byte
  bitCnt : Nat
  deriving DecidableEq, Repr

/-- The QM-coder registers (R48). -/
structure Coder where
  a     : BitVec 17
  c     : BitVec 32
  ct    : Int
  zfill : Bool
  deriving DecidableEq, Repr

/-- The statistics bins (R48, R420); a lossless bin that is not listed is 0. -/
structure Stats where
  dc : Vector (Vector Byte 64) 4
  ac : Vector (Vector Byte 256) 4
  ll : Vector (List Host.Cell) 4
  deriving DecidableEq, Repr

/-- Component Info (R39). -/
structure Comp where
  id : Byte
  tq : BitVec 2
  td : BitVec 2
  ta : BitVec 2
  h  : BitVec 3
  v  : BitVec 3
  deriving DecidableEq, Repr, Inhabited

/-- The frame registers (R38, R39); `seen`, `pt` and `exp` are per-frame facts that R227, R256, R452 and R473 read. -/
structure Frame where
  ft   : BitVec 4
  p    : BitVec 5
  y    : BitVec 16
  x    : BitVec 16
  nf   : BitVec 3
  hmax : BitVec 3
  vmax : BitVec 3
  comp : Vector Comp 4
  seen : Vector Bool 4
  pt   : Vector (BitVec 4) 4
  exp  : Option (Bool × Bool)
  deriving DecidableEq, Repr

/-- One entry of the MCU descriptor: scan component, block column offset, block row offset (R51). -/
structure McuEntry where
  j  : Nat
  dx : Nat
  dy : Nat
  deriving DecidableEq, Repr, Inhabited

/-- The scan registers (R40, R50, R51); `ni` is NI of R258, `entry` the index in MCUD of the block or sample decoded next. -/
structure Scan where
  ns        : BitVec 3
  sc        : Vector (BitVec 2) 4
  ss        : BitVec 6
  se        : BitVec 6
  ah        : BitVec 4
  al        : BitVec 4
  mcud      : List McuEntry
  nunits    : Nat
  unit      : Nat
  entry     : Nat
  intv      : Nat
  ni        : Nat
  expectRst : BitVec 3
  deriving DecidableEq, Repr

/-- The entropy predictor state (R46); `lda` holds a row of LDA per component, one entry for each row of its unit (R412, log 39). -/
structure Pred where
  pred   : Vector Int 4
  eobrun : Nat
  dcCtx  : Vector Nat 4
  lda    : Vector (Vector Int 4) 4
  ldb    : Vector (List Int) 4
  deriving DecidableEq, Repr

/-- The table set outside the arena, the restart interval and the coverage record (R41-R44, R49). -/
structure Tables where
  qt        : Vector (Option QTable) 4
  ql        : Vector (Option QTable) 4
  dacDc     : Vector Byte 4
  dacAc     : Vector Byte 4
  ri        : BitVec 16
  defaultHt : Bool
  cover     : Vector (Vector (Option Nat) 64) 4
  deriving DecidableEq, Repr

/-- What the engine does next: nothing; the marker SOI (R200); the next marker of the layout scan (R202); the entropy walk
(R206); the replay of table markers before a frame and its SOF, or before a scan and its SOS (R215, R216); the entry of a restart
interval (R265); the next block or sample (R266); the end of a frame (R257, R440); the output (R450-R456, R476); the four
stages of an encode (R490). -/
inductive Phase where
  | idle | soi | scan | entropy | replaySof | replaySos | interval | unit | frameEnd | output
  | encRead | encQuant | encCode | encWrite
  deriving DecidableEq, Repr

/-- Which symbols a block in progress reads next: those of its DC table, or those of its AC table (R300). -/
inductive Stage where
  | dc
  | ac
  deriving DecidableEq, Repr

/-- The kind of routine a block in progress belongs to: sequential (R300), a progressive first scan (R310, R314), a progressive AC
refinement (R316), lossless (R400). -/
inductive Mode where
  | seq
  | first
  | refine
  | lossless
  deriving DecidableEq, Repr

/-- The address of a block `(bx, by)` or sample `(x, y)` of frame component `c` (R253, R254). -/
structure Address where
  c : Nat
  x : Nat
  y : Nat
  deriving DecidableEq, Repr, Inhabited

/-- A block (or lossless sample) in progress, decoded symbol by symbol: the local variables of R301, R302, R314, R316, R400. -/
structure OpenBlock where
  mode  : Mode
  addr  : Address
  k     : Nat
  stage : Stage
  deriving DecidableEq, Repr

/-- The sequencing of an operation (R215, R584): the phase, the offset of the marker being dispatched (R202), the start of the
scanner's current interval (R205), the offset of the marker that ended the last entropy data (R206, R213), the frame and scan being
decoded, the AUX entries replayed (R216), the block in progress. -/
structure Seq where
  phase   : Phase
  moff    : Nat
  ivstart : Nat
  scanEnd : Nat
  frameIx : Nat
  scanIx  : Nat
  auxPos  : Nat
  block   : Option OpenBlock
  deriving DecidableEq, Repr

/-- What the DHP segment says of the final image (R141, R209): precision, size, and (ID, H, V) of each component. -/
structure Dhp where
  p     : Byte
  y     : BitVec 16
  x     : BitVec 16
  comps : List (Byte × Nat × Nat)
  deriving DecidableEq, Repr

/-- Hierarchical and colour state: the DHP, the pending EXP (R226), the Adobe transform code (R143), the selected transfer
function and the component IDs it was selected for (R451). -/
structure Hier where
  dhp      : Option Dhp
  exp      : Option (Bool × Bool)
  adobeT   : Option Byte
  transfer : Option Config.TransferKind
  ids      : List Byte
  deriving DecidableEq, Repr

/-- Host memory: bytes by address, and the address ranges `[lo, hi)` whose content is unspecified (R112, R581). Both lists have
one canonical form, `Memory.wf`. -/
structure Memory where
  cells  : List Host.Cell
  unspec : List (Nat × Nat)
  deriving DecidableEq, Repr

/-- One entry of the script: an engine step, a host access on the bus, or the hardware reset (log 1). -/
inductive HostAct where
  /-- The engine takes one step. -/
  | engine
  /-- The host writes the low `width` bytes of `val`. -/
  | write (addr : Word) (width : Nat) (val : Word)
  /-- The host reads `width` bytes. -/
  | read (addr : Word) (width : Nat)
  /-- The hardware reset (R580, R581). -/
  | reset
  deriving DecidableEq, Repr

/-- What the host broke of the buffer discipline in this operation (R111, R550, R591; log 15): the engine's reads of the arena are
draws, and the output bytes the host wrote while BUSY, as ranges in the form of `Memory.unspec`. -/
structure Breach where
  arena : Bool
  out   : List (Nat × Nat)
  deriving DecidableEq, Repr

/-- The state of LPJ. -/
structure State where
  regs     : HostRegs
  rd       : Reader
  qm       : Coder
  st       : Stats
  fr       : Frame
  sc       : Scan
  pr       : Pred
  tb       : Tables
  sq       : Seq
  hi       : Hier
  arena    : Arena
  enc      : Enc
  mem      : Memory
  breach   : Breach
  params   : Config.Params
  script   : List HostAct
  rdata    : Word
  draws    : Nat
  overflow : Bool
  deriving DecidableEq, Repr

/-- The engine state an UndefinedRead fault names (R549). -/
inductive Unwritten where
  /-- No MCU descriptor entry stands at the current position. -/
  | descriptor
  /-- The addressed block or sample is in no plane of the frame. -/
  | plane
  /-- A symbol with no block in progress. -/
  | block
  /-- The latched quantization table of a component. -/
  | quantTable
  /-- The frame or scan record being decoded. -/
  | layout
  /-- The selected transfer function. -/
  | transfer
  /-- The reconstructed or accumulated samples of a component. -/
  | samples
  /-- The registers that form SEL hold no routine's selector. -/
  | selector
  deriving DecidableEq, Repr

/-- How a step can stop. Both are model faults that no run from reset reaches (R549, R551). -/
inductive Fault where
  /-- Raised by a rule that reads engine state no earlier rule of the operation wrote (R37 preamble, R549, U1). Safe: the model
  stops where the spec gives no value (log 8). -/
  | undefinedRead (what : Unwritten)
  /-- Raised by a loop that passes the bound R551 gives it, from register values no run produces. Safe (log 31). -/
  | loopBound
  deriving DecidableEq, Repr

/-- Why a step has no meaning. -/
inductive Refusal where
  /-- Raised by exec for an instruction whose meaning is not written; no arm raises it. Safe. -/
  | notModelled (mnemonic : String)
  deriving DecidableEq, Repr

/-- The host registers after reset (R32, R580): all zero but EXIF_OFF. -/
def HostRegs.reset : HostRegs where
  ctrl := 0
  status := 0
  errcode := 0
  inBase := 0
  inLen := 0
  outBase := 0
  outLen := 0
  scrBase := 0
  scrLen := 0
  sizeLimit := 0
  imgWidth := 0
  imgHeight := 0
  outUsed := 0
  exifOff := 0xFFFFFFFF
  exifLen := 0
  info := 0

/-- DESIGN CHOICE (log 9): the spec leaves the bit reader undefined at reset. -/
def Reader.init : Reader := ⟨0, 0, 0, 0⟩

/-- The QM-coder registers at reset (DESIGN CHOICE, log 9). -/
def Coder.init : Coder := ⟨0, 0, 0, false⟩

/-- All bins 0 (R265; at reset DESIGN CHOICE, log 9). -/
def Stats.init : Stats where
  dc := Vector.replicate 4 (Vector.replicate 64 0)
  ac := Vector.replicate 4 (Vector.replicate 256 0)
  ll := Vector.replicate 4 []

/-- The frame registers at reset (DESIGN CHOICE, log 9). -/
def Frame.init : Frame where
  ft := 0
  p := 0
  y := 0
  x := 0
  nf := 0
  hmax := 0
  vmax := 0
  comp := Vector.replicate 4 ⟨0, 0, 0, 0, 0, 0⟩
  seen := Vector.replicate 4 false
  pt := Vector.replicate 4 0
  exp := none

/-- The scan registers at reset (DESIGN CHOICE, log 9). -/
def Scan.init : Scan where
  ns := 0
  sc := Vector.replicate 4 0
  ss := 0
  se := 0
  ah := 0
  al := 0
  mcud := []
  nunits := 0
  unit := 0
  entry := 0
  intv := 0
  ni := 0
  expectRst := 0

/-- The predictors at their interval-start values (R46; at reset DESIGN CHOICE, log 9). -/
def Pred.init : Pred where
  pred := Vector.replicate 4 0
  eobrun := 0
  dcCtx := Vector.replicate 4 0
  lda := Vector.replicate 4 (Vector.replicate 4 0)
  ldb := Vector.replicate 4 []

/-- The table set at START (R41-R44, R583): slots undefined, conditioning at its defaults, RI = 0; COVER none, as at a frame's start
(R49 leaves it undefined before one; log 9). -/
def Tables.init : Tables where
  qt := Vector.replicate 4 none
  ql := Vector.replicate 4 none
  dacDc := Vector.replicate 4 0x10
  dacAc := Vector.replicate 4 0x05
  ri := 0
  defaultHt := false
  cover := Vector.replicate 4 (Vector.replicate 64 none)

/-- No operation in progress (R580). -/
def Seq.init : Seq where
  phase := .idle
  moff := 0
  ivstart := 0
  scanEnd := 0
  frameIx := 0
  scanIx := 0
  auxPos := 0
  block := none

/-- No hierarchical or colour state. -/
def Hier.init : Hier := ⟨none, none, none, none, []⟩

/-- The empty arena (R583). -/
def Arena.init : Arena where
  used := 0
  layout := ⟨[], [], none, none, none, none⟩
  dcTables := Vector.replicate 4 none
  acTables := Vector.replicate 4 none
  planes := Vector.replicate 4 none
  rs := Vector.replicate 4 none
  acc := []

/-- The host has kept the discipline. -/
def Breach.init : Breach := ⟨false, []⟩

/-- The encoder state before an encode (DESIGN CHOICE, log 9). -/
def Enc.init : Enc where
  w := 0
  h := 0
  yPlane := []
  cb := []
  cr := []
  qy := Vector.replicate 64 0
  qc := Vector.replicate 64 0
  yBlocks := []
  cbBlocks := []
  crBlocks := []
  freq := Vector.replicate 4 (Vector.replicate 256 0)
  ehufco := Vector.replicate 4 (Vector.replicate 256 0)
  ehufsi := Vector.replicate 4 (Vector.replicate 256 0)
  pred := Vector.replicate 3 0
  obuf := []
  opos := 0

/-- The parameters at reset: the reference value of each (DESIGN CHOICE, log 3, log 4, log 5; log 33). -/
def Params.reset : Config.Params where
  idct := .reference
  fdctQ := .reference
  upsample := .reference
  transfer := .reference
  scale16 := .reference
  alphaAbsent := 0xFFFF
  expand := .reference
  llArithCtx := .reference
  huffLimit := .reference
  quantHeur := .reference
  arithTrailing := .ignore
  allocBytes := .modelBytes
  admitLossless := true
  sosChroma := .table
  lpjBase := 0xF0000000

/-- The state right after hardware reset (R580). -/
def State.reset : State where
  regs := HostRegs.reset
  rd := Reader.init
  qm := Coder.init
  st := Stats.init
  fr := Frame.init
  sc := Scan.init
  pr := Pred.init
  tb := Tables.init
  sq := Seq.init
  hi := Hier.init
  arena := Arena.init
  enc := Enc.init
  mem := ⟨[], []⟩
  breach := Breach.init
  params := Params.reset
  script := []
  rdata := 0
  draws := 0
  overflow := false

end Sys2Proof.Machine
end

