-- ==== Sys2Proof/Machine/Constants.lean ====
section
/-! DEFINITION. The constants of the spec: zigzag order (R17), the probability state table (R340), the reference Huffman tables
(R225), the reference quantization tables (R495). -/

namespace Sys2Proof.Machine

/-- ZZ: the natural index 8v+u of the k-th coefficient in zigzag order (R17). -/
def zigzag : List Nat :=
  [0, 1, 8, 16, 9, 2, 3, 10, 17, 24, 32, 25, 18, 11, 4, 5] ++
  [12, 19, 26, 33, 40, 48, 41, 34, 27, 20, 13, 6, 7, 14, 21, 28] ++
  [35, 42, 49, 56, 57, 50, 43, 36, 29, 22, 15, 23, 30, 37, 44, 51] ++
  [58, 59, 52, 45, 38, 31, 39, 46, 53, 60, 61, 54, 47, 55, 62, 63]

/-- One row of QE_TABLE: Qe, NLPS, NMPS, SWITCH (R340). -/
structure QeRow where
  qe     : Nat
  nlps   : Nat
  nmps   : Nat
  switch : Bool
  deriving DecidableEq, Repr

/-- QE_TABLE, indices 0 to 112 (R340). -/
def qeTable : List QeRow :=
  [⟨0x5A1D, 1, 1, true⟩, ⟨0x2586, 14, 2, false⟩, ⟨0x1114, 16, 3, false⟩, ⟨0x080B, 18, 4, false⟩] ++
  [⟨0x03D8, 20, 5, false⟩, ⟨0x01DA, 23, 6, false⟩, ⟨0x00E5, 25, 7, false⟩, ⟨0x006F, 28, 8, false⟩] ++
  [⟨0x0036, 30, 9, false⟩, ⟨0x001A, 33, 10, false⟩, ⟨0x000D, 35, 11, false⟩, ⟨0x0006, 9, 12, false⟩] ++
  [⟨0x0003, 10, 13, false⟩, ⟨0x0001, 12, 13, false⟩, ⟨0x5A7F, 15, 15, true⟩, ⟨0x3F25, 36, 16, false⟩] ++
  [⟨0x2CF2, 38, 17, false⟩, ⟨0x207C, 39, 18, false⟩, ⟨0x17B9, 40, 19, false⟩, ⟨0x1182, 42, 20, false⟩] ++
  [⟨0x0CEF, 43, 21, false⟩, ⟨0x09A1, 45, 22, false⟩, ⟨0x072F, 46, 23, false⟩, ⟨0x055C, 48, 24, false⟩] ++
  [⟨0x0406, 49, 25, false⟩, ⟨0x0303, 51, 26, false⟩, ⟨0x0240, 52, 27, false⟩, ⟨0x01B1, 54, 28, false⟩] ++
  [⟨0x0144, 56, 29, false⟩, ⟨0x00F5, 57, 30, false⟩, ⟨0x00B7, 59, 31, false⟩, ⟨0x008A, 60, 32, false⟩] ++
  [⟨0x0068, 62, 33, false⟩, ⟨0x004E, 63, 34, false⟩, ⟨0x003B, 32, 35, false⟩, ⟨0x002C, 33, 9, false⟩] ++
  [⟨0x5AE1, 37, 37, true⟩, ⟨0x484C, 64, 38, false⟩, ⟨0x3A0D, 65, 39, false⟩, ⟨0x2EF1, 67, 40, false⟩] ++
  [⟨0x261F, 68, 41, false⟩, ⟨0x1F33, 69, 42, false⟩, ⟨0x19A8, 70, 43, false⟩, ⟨0x1518, 72, 44, false⟩] ++
  [⟨0x1177, 73, 45, false⟩, ⟨0x0E74, 74, 46, false⟩, ⟨0x0BFB, 75, 47, false⟩, ⟨0x09F8, 77, 48, false⟩] ++
  [⟨0x0861, 78, 49, false⟩, ⟨0x0706, 79, 50, false⟩, ⟨0x05CD, 48, 51, false⟩, ⟨0x04DE, 50, 52, false⟩] ++
  [⟨0x040F, 50, 53, false⟩, ⟨0x0363, 51, 54, false⟩, ⟨0x02D4, 52, 55, false⟩, ⟨0x025C, 53, 56, false⟩] ++
  [⟨0x01F8, 54, 57, false⟩, ⟨0x01A4, 55, 58, false⟩, ⟨0x0160, 56, 59, false⟩, ⟨0x0125, 57, 60, false⟩] ++
  [⟨0x00F6, 58, 61, false⟩, ⟨0x00CB, 59, 62, false⟩, ⟨0x00AB, 61, 63, false⟩, ⟨0x008F, 61, 32, false⟩] ++
  [⟨0x5B12, 65, 65, true⟩, ⟨0x4D04, 80, 66, false⟩, ⟨0x412C, 81, 67, false⟩, ⟨0x37D8, 82, 68, false⟩] ++
  [⟨0x2FE8, 83, 69, false⟩, ⟨0x293C, 84, 70, false⟩, ⟨0x2379, 86, 71, false⟩, ⟨0x1EDF, 87, 72, false⟩] ++
  [⟨0x1AA9, 87, 73, false⟩, ⟨0x174E, 72, 74, false⟩, ⟨0x1424, 72, 75, false⟩, ⟨0x119C, 74, 76, false⟩] ++
  [⟨0x0F6B, 74, 77, false⟩, ⟨0x0D51, 75, 78, false⟩, ⟨0x0BB6, 77, 79, false⟩, ⟨0x0A40, 77, 48, false⟩] ++
  [⟨0x5832, 80, 81, true⟩, ⟨0x4D1C, 88, 82, false⟩, ⟨0x438E, 89, 83, false⟩, ⟨0x3BDD, 90, 84, false⟩] ++
  [⟨0x34EE, 91, 85, false⟩, ⟨0x2EAE, 92, 86, false⟩, ⟨0x299A, 93, 87, false⟩, ⟨0x2516, 86, 71, false⟩] ++
  [⟨0x5570, 88, 89, true⟩, ⟨0x4CA9, 95, 90, false⟩, ⟨0x44D9, 96, 91, false⟩, ⟨0x3E22, 97, 92, false⟩] ++
  [⟨0x3824, 99, 93, false⟩, ⟨0x32B4, 99, 94, false⟩, ⟨0x2E17, 93, 86, false⟩, ⟨0x56A8, 95, 96, true⟩] ++
  [⟨0x4F46, 101, 97, false⟩, ⟨0x47E5, 102, 98, false⟩, ⟨0x41CF, 103, 99, false⟩, ⟨0x3C3D, 104, 100, false⟩] ++
  [⟨0x375E, 99, 93, false⟩, ⟨0x5231, 105, 102, false⟩, ⟨0x4C0F, 106, 103, false⟩, ⟨0x4639, 107, 104, false⟩] ++
  [⟨0x415E, 103, 99, false⟩, ⟨0x5627, 105, 106, true⟩, ⟨0x50E7, 108, 107, false⟩, ⟨0x4B85, 109, 103, false⟩] ++
  [⟨0x5597, 110, 109, false⟩, ⟨0x504F, 111, 107, false⟩, ⟨0x5A10, 110, 111, true⟩, ⟨0x5522, 112, 109, false⟩] ++
  [⟨0x59EB, 112, 111, true⟩]

/-- DC luminance: BITS (R225). -/
def refDcLumaBits : List Nat := [0, 1, 5, 1, 1, 1, 1, 1, 1, 0, 0, 0, 0, 0, 0, 0]

/-- DC luminance: VALS (R225). -/
def refDcLumaVals : List Byte :=
  [0x00, 0x01, 0x02, 0x03, 0x04, 0x05, 0x06, 0x07, 0x08, 0x09, 0x0A, 0x0B]

/-- DC chrominance: BITS (R225). -/
def refDcChromaBits : List Nat := [0, 3, 1, 1, 1, 1, 1, 1, 1, 1, 1, 0, 0, 0, 0, 0]

/-- DC chrominance: VALS (R225). -/
def refDcChromaVals : List Byte :=
  [0x00, 0x01, 0x02, 0x03, 0x04, 0x05, 0x06, 0x07, 0x08, 0x09, 0x0A, 0x0B]

/-- AC luminance: BITS (R225). -/
def refAcLumaBits : List Nat := [0, 2, 1, 3, 3, 2, 4, 3, 5, 5, 4, 4, 0, 0, 1, 125]

/-- AC luminance: VALS (R225). -/
def refAcLumaVals : List Byte :=
  [0x01, 0x02, 0x03, 0x00, 0x04, 0x11, 0x05, 0x12, 0x21, 0x31, 0x41, 0x06, 0x13, 0x51, 0x61, 0x07] ++
  [0x22, 0x71, 0x14, 0x32, 0x81, 0x91, 0xA1, 0x08, 0x23, 0x42, 0xB1, 0xC1, 0x15, 0x52, 0xD1, 0xF0] ++
  [0x24, 0x33, 0x62, 0x72, 0x82, 0x09, 0x0A, 0x16, 0x17, 0x18, 0x19, 0x1A, 0x25, 0x26, 0x27, 0x28] ++
  [0x29, 0x2A, 0x34, 0x35, 0x36, 0x37, 0x38, 0x39, 0x3A, 0x43, 0x44, 0x45, 0x46, 0x47, 0x48, 0x49] ++
  [0x4A, 0x53, 0x54, 0x55, 0x56, 0x57, 0x58, 0x59, 0x5A, 0x63, 0x64, 0x65, 0x66, 0x67, 0x68, 0x69] ++
  [0x6A, 0x73, 0x74, 0x75, 0x76, 0x77, 0x78, 0x79, 0x7A, 0x83, 0x84, 0x85, 0x86, 0x87, 0x88, 0x89] ++
  [0x8A, 0x92, 0x93, 0x94, 0x95, 0x96, 0x97, 0x98, 0x99, 0x9A, 0xA2, 0xA3, 0xA4, 0xA5, 0xA6, 0xA7] ++
  [0xA8, 0xA9, 0xAA, 0xB2, 0xB3, 0xB4, 0xB5, 0xB6, 0xB7, 0xB8, 0xB9, 0xBA, 0xC2, 0xC3, 0xC4, 0xC5] ++
  [0xC6, 0xC7, 0xC8, 0xC9, 0xCA, 0xD2, 0xD3, 0xD4, 0xD5, 0xD6, 0xD7, 0xD8, 0xD9, 0xDA, 0xE1, 0xE2] ++
  [0xE3, 0xE4, 0xE5, 0xE6, 0xE7, 0xE8, 0xE9, 0xEA, 0xF1, 0xF2, 0xF3, 0xF4, 0xF5, 0xF6, 0xF7, 0xF8] ++
  [0xF9, 0xFA]

/-- AC chrominance: BITS (R225). -/
def refAcChromaBits : List Nat := [0, 2, 1, 2, 4, 4, 3, 4, 7, 5, 4, 4, 0, 1, 2, 119]

/-- AC chrominance: VALS (R225). -/
def refAcChromaVals : List Byte :=
  [0x00, 0x01, 0x02, 0x03, 0x11, 0x04, 0x05, 0x21, 0x31, 0x06, 0x12, 0x41, 0x51, 0x07, 0x61, 0x71] ++
  [0x13, 0x22, 0x32, 0x81, 0x08, 0x14, 0x42, 0x91, 0xA1, 0xB1, 0xC1, 0x09, 0x23, 0x33, 0x52, 0xF0] ++
  [0x15, 0x62, 0x72, 0xD1, 0x0A, 0x16, 0x24, 0x34, 0xE1, 0x25, 0xF1, 0x17, 0x18, 0x19, 0x1A, 0x26] ++
  [0x27, 0x28, 0x29, 0x2A, 0x35, 0x36, 0x37, 0x38, 0x39, 0x3A, 0x43, 0x44, 0x45, 0x46, 0x47, 0x48] ++
  [0x49, 0x4A, 0x53, 0x54, 0x55, 0x56, 0x57, 0x58, 0x59, 0x5A, 0x63, 0x64, 0x65, 0x66, 0x67, 0x68] ++
  [0x69, 0x6A, 0x73, 0x74, 0x75, 0x76, 0x77, 0x78, 0x79, 0x7A, 0x82, 0x83, 0x84, 0x85, 0x86, 0x87] ++
  [0x88, 0x89, 0x8A, 0x92, 0x93, 0x94, 0x95, 0x96, 0x97, 0x98, 0x99, 0x9A, 0xA2, 0xA3, 0xA4, 0xA5] ++
  [0xA6, 0xA7, 0xA8, 0xA9, 0xAA, 0xB2, 0xB3, 0xB4, 0xB5, 0xB6, 0xB7, 0xB8, 0xB9, 0xBA, 0xC2, 0xC3] ++
  [0xC4, 0xC5, 0xC6, 0xC7, 0xC8, 0xC9, 0xCA, 0xD2, 0xD3, 0xD4, 0xD5, 0xD6, 0xD7, 0xD8, 0xD9, 0xDA] ++
  [0xE2, 0xE3, 0xE4, 0xE5, 0xE6, 0xE7, 0xE8, 0xE9, 0xEA, 0xF2, 0xF3, 0xF4, 0xF5, 0xF6, 0xF7, 0xF8] ++
  [0xF9, 0xFA]

/-- QY in natural order (R495). -/
def refQy : List Nat :=
  [16, 11, 10, 16, 24, 40, 51, 61, 12, 12, 14, 19, 26, 58, 60, 55] ++
  [14, 13, 16, 24, 40, 57, 69, 56, 14, 17, 22, 29, 51, 87, 80, 62] ++
  [18, 22, 37, 56, 68, 109, 103, 77, 24, 35, 55, 64, 81, 104, 113, 92] ++
  [49, 64, 78, 87, 103, 121, 120, 101, 72, 92, 95, 98, 112, 100, 103, 99]

/-- QC in natural order (R495). -/
def refQc : List Nat :=
  [17, 18, 24, 47, 99, 99, 99, 99, 18, 21, 26, 66, 99, 99, 99, 99] ++
  [24, 26, 56, 99, 99, 99, 99, 99, 47, 66, 99, 99, 99, 99, 99, 99] ++
  [99, 99, 99, 99, 99, 99, 99, 99, 99, 99, 99, 99, 99, 99, 99, 99] ++
  [99, 99, 99, 99, 99, 99, 99, 99, 99, 99, 99, 99, 99, 99, 99, 99]

/-- The binary places of `cosScaled`. -/
def cosPlaces : Nat := 400

/-- `2 cos (j pi / 16)` for j = 1..7, as the nearest integer multiple of `2^-400` (R443, R496; log 27). -/
def cosScaled : List Nat :=
  [0x1f6297cff75cb02ac42e546c3fa54e45d8be81c7fb1e315c36332e643691d163728f4a6e66a788b491ab62bd54b06d1dd55af,
   0x1d906bcf328d4628afcc20463583ac301e1507a79a1b5d36bb712f84708106e8d4c68196cb89623ab63d807d2e7333191b193,
   0x1a9b66290ea1a3033ec61d16db5907cd168d23a5f33d93d555811cb14f9a72a887e8dbc9f75fb81178c7bf123df70fab74ada,
   0x16a09e667f3bcc908b2fb1366ea957d3e3adec17512775099da2f590b0667322a95f90608757145875163fcdfb907b6721ee9,
   0x11c73b39ae68c86c977499fd97fea90cef94fae935bf7467d9532c0d1852dfaf2ff22a5974e55ca19bf27d591d8ac3a81d6ed,
   0xc3ef1535754b168d3122c2a59efddc377be3eb69567bc49874782b20c4e31ee2da25ab3775389102f7142064c9db5e4c6a03,
   0x63e2e0f1a6982ad92e64600727e66c27e729cb1a252e5e3a72870ecf12a82983451f7b7cfd6330fc490b2f2630386e302fc7]

end Sys2Proof.Machine
end

