-- ==== Sys2Proof/Syntax.lean ====
section
/-! DEFINITION. The instructions of LPJ: one constructor per row of spec/opcode_table.json (R132, R153-R158, R582). The table
gives the mnemonics; a range of codes is one row with its free low bits as a field. -/

namespace Sys2Proof

/-- An instruction of LPJ: a marker of the stream (R132), a routine selector SEL (R158), a Huffman symbol (R153, R154, R156) or
a START command (R582). A segment's length and payload are operands that follow the marker in the stream (R131). -/
inductive Instr where
  -- markers (R132)
  | tem
  | res02 (low : BitVec 1)
  | res04 (low : BitVec 2)
  | res08 (low : BitVec 3)
  | res10 (low : BitVec 4)
  | res20 (low : BitVec 5)
  | res40 (low : BitVec 6)
  | res80 (low : BitVec 6)
  | sof0
  | sof1
  | sof2
  | sof3
  | dht
  | sof5
  | sof6
  | sof7
  | jpg
  | sof9
  | sof10
  | sof11
  | dac
  | sof13
  | sof14
  | sof15
  | rst (m : BitVec 3)
  | soi
  | eoi
  | sos
  | dqt
  | dnl
  | dri
  | dhp
  | exp
  | app0
  | app1
  | app2 (low : BitVec 1)
  | app4 (low : BitVec 2)
  | app8 (low : BitVec 2)
  | app12 (low : BitVec 1)
  | app14
  | app15
  | jpg0 (low : BitVec 3)
  | jpg8 (low : BitVec 2)
  | jpg12 (low : BitVec 1)
  | com
  -- routine selectors (R158): `d` is the differential bit, `x` the low process bit of HUF_SEQ
  | hufSeq (d x : Bool)
  | hufDcFirst (d : Bool)
  | hufDcRefine (d : Bool)
  | hufAcFirst (d : Bool)
  | hufAcRefine (d : Bool)
  | hufLossless (d : Bool)
  | ariSeq (d : Bool)
  | ariDcFirst (d : Bool)
  | ariDcRefine (d : Bool)
  | ariAcFirst (d : Bool)
  | ariAcRefine (d : Bool)
  | ariLossless (d : Bool)
  -- Huffman symbols (R153, R154, R156)
  | dcCategory (t : BitVec 4)
  | losslessDiff (t : BitVec 4)
  | eob
  | zrl
  | eobn (r : BitVec 4)
  | acCoeff (r s : BitVec 4)
  -- commands: a write to CTRL with START = 1 (R582); `irq` is the IRQ_EN bit of that write
  | decode (irq : Bool)
  | encode (irq : Bool)
  deriving DecidableEq, Repr

end Sys2Proof
end

