-- ==== Sys2Proof/WellFormed.lean ====
section
/-! DEFINITION. Which instruction terms stand for an instruction of the table. -/

namespace Sys2Proof

/-- HUF_SEQ with SEL[5:4] = 0 is the baseline frame n = 0, which requires d = 0 (R158). -/
def wfHufSeq (d x : Bool) : Bool := x || !d

/-- EOBn has R in 1..14: R = 0 is EOB and R = 15 is ZRL (R154). -/
def wfEobn (r : BitVec 4) : Bool := decide (r ≠ 0#4) && decide (r ≠ 15#4)

/-- A coefficient symbol has S in 1..15 (R154). -/
def wfAcCoeff (s : BitVec 4) : Bool := decide (s ≠ 0#4)

/-- The term stands for an instruction of the table (R132, R154, R158). -/
def Instr.wf : Instr → Bool
  | .tem | .res02 _ | .res04 _ | .res08 _ | .res10 _ | .res20 _ | .res40 _ | .res80 _ => true
  | .sof0 | .sof1 | .sof2 | .sof3 | .dht | .sof5 | .sof6 | .sof7 | .jpg => true
  | .sof9 | .sof10 | .sof11 | .dac | .sof13 | .sof14 | .sof15 => true
  | .rst _ | .soi | .eoi | .sos | .dqt | .dnl | .dri | .dhp | .exp => true
  | .app0 | .app1 | .app2 _ | .app4 _ | .app8 _ | .app12 _ | .app14 | .app15 => true
  | .jpg0 _ | .jpg8 _ | .jpg12 _ | .com => true
  | .hufSeq d x => wfHufSeq d x
  | .hufDcFirst _ | .hufDcRefine _ | .hufAcFirst _ | .hufAcRefine _ | .hufLossless _ => true
  | .ariSeq _ | .ariDcFirst _ | .ariDcRefine _ | .ariAcFirst _ | .ariAcRefine _ | .ariLossless _ => true
  | .dcCategory _ | .losslessDiff _ | .eob | .zrl => true
  | .eobn r => wfEobn r
  | .acCoeff _ s => wfAcCoeff s
  | .decode _ | .encode _ => true

end Sys2Proof
end

