-- ==== Sys2Proof/Decode.lean ====
section
/-! DEFINITION. Decoding and encoding of LPJ's four kinds of instruction (R130-R132, R152-R158, R582). The decoder is total on
any bytes and rejects by name. Which kind the engine reads next is decided by its phase (log 2). -/

namespace Sys2Proof

/-- Where an instruction is read from: a marker of the stream (R130), the routine selector (R158), a Huffman symbol of a DC, a
lossless or an AC table (R153, R156, R154), a 32-bit write to CTRL (R582). -/
inductive Space where
  | marker | sel | symDc | symLossless | symAc | ctrl
  deriving DecidableEq, Repr

/-- Why bytes are no instruction. -/
inductive DecodeError where
  /-- Fewer bytes than the instruction has. -/
  | truncated
  /-- The first byte of a marker is not 0xFF (R130). -/
  | notAMarker
  /-- 0xFF 0x00 is a stuffed data byte, not a marker (R130, R150). -/
  | stuffedByte
  /-- 0xFF 0xFF is a fill byte, not a marker (R130). -/
  | fillByte
  /-- No routine has this selector (R158). -/
  | reservedSelector
  /-- A DC or lossless category of 16 or more (R153, R156, R160). -/
  | categoryTooLarge
  /-- A write to CTRL with START = 0 starts nothing (R582). -/
  | startClear
  deriving DecidableEq, Repr

/-- The marker 0xFF `m` (R132). -/
def decodeMarker (m : Byte) : Except DecodeError Instr :=
  if m = 0x00 then .error .stuffedByte
  else if m = 0x01 then .ok .tem
  else if m < 0x04 then .ok (.res02 (m.setWidth 1))
  else if m < 0x08 then .ok (.res04 (m.setWidth 2))
  else if m < 0x10 then .ok (.res08 (m.setWidth 3))
  else if m < 0x20 then .ok (.res10 (m.setWidth 4))
  else if m < 0x40 then .ok (.res20 (m.setWidth 5))
  else if m < 0x80 then .ok (.res40 (m.setWidth 6))
  else if m < 0xC0 then .ok (.res80 (m.setWidth 6))
  else if m = 0xC0 then .ok .sof0
  else if m = 0xC1 then .ok .sof1
  else if m = 0xC2 then .ok .sof2
  else if m = 0xC3 then .ok .sof3
  else if m = 0xC4 then .ok .dht
  else if m = 0xC5 then .ok .sof5
  else if m = 0xC6 then .ok .sof6
  else if m = 0xC7 then .ok .sof7
  else if m = 0xC8 then .ok .jpg
  else if m = 0xC9 then .ok .sof9
  else if m = 0xCA then .ok .sof10
  else if m = 0xCB then .ok .sof11
  else if m = 0xCC then .ok .dac
  else if m = 0xCD then .ok .sof13
  else if m = 0xCE then .ok .sof14
  else if m = 0xCF then .ok .sof15
  else if m < 0xD8 then .ok (.rst (m.setWidth 3))
  else if m = 0xD8 then .ok .soi
  else if m = 0xD9 then .ok .eoi
  else if m = 0xDA then .ok .sos
  else if m = 0xDB then .ok .dqt
  else if m = 0xDC then .ok .dnl
  else if m = 0xDD then .ok .dri
  else if m = 0xDE then .ok .dhp
  else if m = 0xDF then .ok .exp
  else if m = 0xE0 then .ok .app0
  else if m = 0xE1 then .ok .app1
  else if m < 0xE4 then .ok (.app2 (m.setWidth 1))
  else if m < 0xE8 then .ok (.app4 (m.setWidth 2))
  else if m < 0xEC then .ok (.app8 (m.setWidth 2))
  else if m < 0xEE then .ok (.app12 (m.setWidth 1))
  else if m = 0xEE then .ok .app14
  else if m = 0xEF then .ok .app15
  else if m < 0xF8 then .ok (.jpg0 (m.setWidth 3))
  else if m < 0xFC then .ok (.jpg8 (m.setWidth 2))
  else if m < 0xFE then .ok (.jpg12 (m.setWidth 1))
  else if m = 0xFE then .ok .com
  else .error .fillByte

/-- The routine of the selector SEL (R158); `d` is SEL[6]. -/
def decodeSel (sel : Byte) : Except DecodeError Instr :=
  let d := sel.getLsbD 6
  let rest := sel &&& 0xBF
  if rest = 0x00 then (if d then .error .reservedSelector else .ok (.hufSeq false false))
  else if rest = 0x10 then .ok (.hufSeq d true)
  else if rest = 0x20 then .ok (.hufDcFirst d)
  else if rest = 0x21 then .ok (.hufDcRefine d)
  else if rest = 0x22 then .ok (.hufAcFirst d)
  else if rest = 0x23 then .ok (.hufAcRefine d)
  else if rest = 0x30 then .ok (.hufLossless d)
  else if rest = 0x90 then .ok (.ariSeq d)
  else if rest = 0xA0 then .ok (.ariDcFirst d)
  else if rest = 0xA1 then .ok (.ariDcRefine d)
  else if rest = 0xA2 then .ok (.ariAcFirst d)
  else if rest = 0xA3 then .ok (.ariAcRefine d)
  else if rest = 0xB0 then .ok (.ariLossless d)
  else .error .reservedSelector

/-- A symbol of a DC table: the category, which must be below 16 (R153, R160). -/
def decodeSymDc (b : Byte) : Except DecodeError Instr :=
  if b < 0x10 then .ok (.dcCategory (b.setWidth 4)) else .error .categoryTooLarge

/-- A symbol of a DC table read by a lossless routine (R156; category 16 is invalid, conflict C4). -/
def decodeSymLossless (b : Byte) : Except DecodeError Instr :=
  if b < 0x10 then .ok (.losslessDiff (b.setWidth 4)) else .error .categoryTooLarge

/-- A symbol `RS` of an AC table (R154): every byte is one of the four forms. -/
def decodeSymAc (b : Byte) : Instr :=
  let r : BitVec 4 := b.extractLsb' 4 4
  let s : BitVec 4 := b.setWidth 4
  if s = 0 then (if r = 0 then .eob else if r = 15 then .zrl else .eobn r) else .acCoeff r s

/-- The low byte of a 32-bit value written to CTRL: [0] START, [1] OP, [2] IRQ_EN (R32, R582); the reserved bits are ignored. -/
def decodeCtrl (b : Byte) : Except DecodeError Instr :=
  if b.getLsbD 0 then
    .ok (if b.getLsbD 1 then .encode (b.getLsbD 2) else .decode (b.getLsbD 2))
  else .error .startClear

/-- The instruction at the head of the bytes, read in a given space, and the bytes after it. -/
def decode : Space → List Byte → Except DecodeError (Instr × List Byte)
  | .marker, 0xFF#8 :: m :: rest => (decodeMarker m).map (·, rest)
  | .marker, _ :: _ :: _ => .error .notAMarker
  | .marker, _ => .error .truncated
  | .sel, b :: rest => (decodeSel b).map (·, rest)
  | .symDc, b :: rest => (decodeSymDc b).map (·, rest)
  | .symLossless, b :: rest => (decodeSymLossless b).map (·, rest)
  | .symAc, b :: rest => .ok (decodeSymAc b, rest)
  | .ctrl, b0 :: _ :: _ :: _ :: rest => (decodeCtrl b0).map (·, rest)
  | _, _ => .error .truncated

/-- The space an instruction is encoded in. -/
def Instr.space : Instr → Space
  | .tem | .res02 _ | .res04 _ | .res08 _ | .res10 _ | .res20 _ | .res40 _ | .res80 _ => .marker
  | .sof0 | .sof1 | .sof2 | .sof3 | .dht | .sof5 | .sof6 | .sof7 | .jpg => .marker
  | .sof9 | .sof10 | .sof11 | .dac | .sof13 | .sof14 | .sof15 => .marker
  | .rst _ | .soi | .eoi | .sos | .dqt | .dnl | .dri | .dhp | .exp => .marker
  | .app0 | .app1 | .app2 _ | .app4 _ | .app8 _ | .app12 _ | .app14 | .app15 => .marker
  | .jpg0 _ | .jpg8 _ | .jpg12 _ | .com => .marker
  | .hufSeq _ _ | .hufDcFirst _ | .hufDcRefine _ | .hufAcFirst _ | .hufAcRefine _ | .hufLossless _ => .sel
  | .ariSeq _ | .ariDcFirst _ | .ariDcRefine _ | .ariAcFirst _ | .ariAcRefine _ | .ariLossless _ => .sel
  | .dcCategory _ => .symDc
  | .losslessDiff _ => .symLossless
  | .eob | .zrl | .eobn _ | .acCoeff _ _ => .symAc
  | .decode _ | .encode _ => .ctrl

/-- A marker's code byte, from a base code and free low bits (R132). -/
def markerBytes {k : Nat} (base : Byte) (low : BitVec k) : List Byte := [0xFF, base ||| low.setWidth 8]

/-- A selector byte: the routine's pattern with the differential bit (R158). -/
def selBytes (pattern : Byte) (d : Bool) : List Byte := [if d then pattern ||| 0x40 else pattern]

/-- The four bytes of a CTRL write, low byte first (R32). -/
def ctrlBytes (op irq : Bool) : List Byte :=
  [0x01#8 ||| (if op then 0x02 else 0) ||| (if irq then 0x04 else 0), 0, 0, 0]

/-- The bytes of an instruction, from the encoding tables of R132, R154, R158 and R32. -/
def encode : Instr → List Byte
  | .tem => [0xFF, 0x01]
  | .res02 l => markerBytes 0x02 l
  | .res04 l => markerBytes 0x04 l
  | .res08 l => markerBytes 0x08 l
  | .res10 l => markerBytes 0x10 l
  | .res20 l => markerBytes 0x20 l
  | .res40 l => markerBytes 0x40 l
  | .res80 l => markerBytes 0x80 l
  | .sof0 => [0xFF, 0xC0]
  | .sof1 => [0xFF, 0xC1]
  | .sof2 => [0xFF, 0xC2]
  | .sof3 => [0xFF, 0xC3]
  | .dht => [0xFF, 0xC4]
  | .sof5 => [0xFF, 0xC5]
  | .sof6 => [0xFF, 0xC6]
  | .sof7 => [0xFF, 0xC7]
  | .jpg => [0xFF, 0xC8]
  | .sof9 => [0xFF, 0xC9]
  | .sof10 => [0xFF, 0xCA]
  | .sof11 => [0xFF, 0xCB]
  | .dac => [0xFF, 0xCC]
  | .sof13 => [0xFF, 0xCD]
  | .sof14 => [0xFF, 0xCE]
  | .sof15 => [0xFF, 0xCF]
  | .rst m => markerBytes 0xD0 m
  | .soi => [0xFF, 0xD8]
  | .eoi => [0xFF, 0xD9]
  | .sos => [0xFF, 0xDA]
  | .dqt => [0xFF, 0xDB]
  | .dnl => [0xFF, 0xDC]
  | .dri => [0xFF, 0xDD]
  | .dhp => [0xFF, 0xDE]
  | .exp => [0xFF, 0xDF]
  | .app0 => [0xFF, 0xE0]
  | .app1 => [0xFF, 0xE1]
  | .app2 l => markerBytes 0xE2 l
  | .app4 l => markerBytes 0xE4 l
  | .app8 l => markerBytes 0xE8 l
  | .app12 l => markerBytes 0xEC l
  | .app14 => [0xFF, 0xEE]
  | .app15 => [0xFF, 0xEF]
  | .jpg0 l => markerBytes 0xF0 l
  | .jpg8 l => markerBytes 0xF8 l
  | .jpg12 l => markerBytes 0xFC l
  | .com => [0xFF, 0xFE]
  | .hufSeq d x => selBytes (if x then 0x10 else 0x00) d
  | .hufDcFirst d => selBytes 0x20 d
  | .hufDcRefine d => selBytes 0x21 d
  | .hufAcFirst d => selBytes 0x22 d
  | .hufAcRefine d => selBytes 0x23 d
  | .hufLossless d => selBytes 0x30 d
  | .ariSeq d => selBytes 0x90 d
  | .ariDcFirst d => selBytes 0xA0 d
  | .ariDcRefine d => selBytes 0xA1 d
  | .ariAcFirst d => selBytes 0xA2 d
  | .ariAcRefine d => selBytes 0xA3 d
  | .ariLossless d => selBytes 0xB0 d
  | .dcCategory t => [t.setWidth 8]
  | .losslessDiff t => [t.setWidth 8]
  | .eob => [0x00]
  | .zrl => [0xF0]
  | .eobn r => [r.setWidth 8 <<< 4]
  | .acCoeff r s => [r.setWidth 8 <<< 4 ||| s.setWidth 8]
  | .decode irq => ctrlBytes false irq
  | .encode irq => ctrlBytes true irq

/-- The decoded instruction alone. -/
def decodeInstr (sp : Space) (bytes : List Byte) : Option Instr :=
  match decode sp bytes with
  | .ok (i, _) => some i
  | .error _ => none

/-- The `n` bytes of a number, low byte first. -/
def bytesLE : Nat → Nat → List Byte
  | 0, _ => []
  | n + 1, w => BitVec.ofNat 8 w :: bytesLE n (w / 256)

/-- An 8-bit number of the table read with no phase to say which space it is in: the rows with a full mask first (EOB, ZRL), then
the selectors, then the categories, then the AC forms (log 2). -/
def decodeByteRow (b : Byte) : Option Instr :=
  if b = 0x00 || b = 0xF0 then some (decodeSymAc b)
  else match decodeInstr .sel [b] with
    | some i => some i
    | none => match decodeInstr .symDc [b] with
      | some i => some i
      | none => some (decodeSymAc b)

/-- The instruction the decoder reads from an opcode-table word of `nbits` bits: 8 bits a selector or a symbol, 16 bits a marker
(its first stream byte is bits 15..8, R130), 32 bits a CTRL write (log 2). -/
def decodeTableWord (nbits w : Nat) : Option Instr :=
  match nbits with
  | 8 => decodeByteRow (BitVec.ofNat 8 w)
  | 16 => decodeInstr .marker [BitVec.ofNat 8 (w / 256), BitVec.ofNat 8 w]
  | 32 => decodeInstr .ctrl (bytesLE 4 w)
  | _ => none

end Sys2Proof
end

