-- ==== Sys2Proof/Machine/Flags.lean ====
section
/-! DEFINITION. The single-bit status state of LPJ (R54): STATUS, ERRCODE and INFO, the interrupt output, and the flags of a
frame marker. -/

namespace Sys2Proof.Machine

/-- STATUS.BUSY (R32). -/
def State.busy (s : State) : Bool := s.regs.status.getLsbD 0

/-- STATUS.DONE (R32). -/
def State.done (s : State) : Bool := s.regs.status.getLsbD 1

/-- STATUS.ERR (R32). -/
def State.err (s : State) : Bool := s.regs.status.getLsbD 2

/-- CTRL.OP: 0 decode, 1 encode (R32). -/
def State.op (s : State) : Bool := s.regs.ctrl.getLsbD 1

/-- CTRL.IRQ_EN (R32). -/
def State.irqEn (s : State) : Bool := s.regs.ctrl.getLsbD 2

/-- The interrupt output, a level: IRQ = IRQ_EN & DONE (R36, R552). -/
def State.irq (s : State) : Bool := s.irqEn && s.done

/-- A STATUS word: [0] BUSY, [1] DONE, [2] ERR, the rest 0 (R32). -/
def statusWord (busy done err : Bool) : Word :=
  (if busy then 1 else 0) ||| (if done then 2 else 0) ||| (if err then 4 else 0)

/-- A CTRL word as it reads: [0] START 0, [1] OP, [2] IRQ_EN, the rest 0 (R32). -/
def ctrlWord (op irqEn : Bool) : Word := (if op then 2 else 0) ||| (if irqEn then 4 else 0)

/-- ERRCODE.KIND of an error kind (R540). -/
def ErrKind.code : ErrKind → Word
  | .formatError => 1
  | .imageDataError => 2
  | .imageTooLarge => 3
  | .outOfMemory => 4

/-- INFO with one of its marker-presence bits set: [0] JFIF, [1] Exif, [2] Adobe, [3] DHP (R32, R209, R211). -/
def infoMark (info : Word) (bit : Nat) : Word := info ||| (1#32 <<< bit)

/-- INFO with the last frame's SOF code, Nf and P: [7:4], [10:8], [20:16] (R32, R218). -/
def infoFrame (info : Word) (n : BitVec 4) (nf : BitVec 3) (p : BitVec 5) : Word :=
  (info &&& 0xF#32) ||| (n.setWidth 32 <<< 4) ||| (nf.setWidth 32 <<< 8) ||| (p.setWidth 32 <<< 16)

/-- n[3]: arithmetic coding (R133). -/
def sofArithmetic (n : BitVec 4) : Bool := n.getLsbD 3

/-- n[2]: differential frame (R133). -/
def sofDifferential (n : BitVec 4) : Bool := n.getLsbD 2

/-- n[1:0]: the process (R133). -/
def sofProcess (n : BitVec 4) : Nat := n.toNat % 4

/-- The frame is progressive (R133). -/
def sofProgressive (n : BitVec 4) : Bool := sofProcess n == 2

/-- The frame is lossless (R133). -/
def sofLossless (n : BitVec 4) : Bool := sofProcess n == 3

/-- The value fits the signed 32-bit range (R10, R548). -/
def inInt32 (v : Int) : Bool := decide (-2147483648 ≤ v) && decide (v ≤ 2147483647)

end Sys2Proof.Machine
end

