-- ==== Sys2Proof/Machine/Memory.lean ====
section
/-! DEFINITION. Host memory (R100): one canonical list of bytes, and the ranges whose content is unspecified (R112, R545, R581). -/

namespace Sys2Proof.Machine

/-- The byte listed at an address; an unlisted address reads as 0 (DESIGN CHOICE, log 11). -/
def cellsRead : List Host.Cell → Nat → Byte
  | [], _ => 0
  | (x, v) :: t, a => if a = x then v else cellsRead t a

/-- The list with a byte stored; storing 0 removes the entry, so that equal contents are equal lists. -/
def cellsWrite : List Host.Cell → Nat → Byte → List Host.Cell
  | [], a, b => if b = 0 then [] else [(a, b)]
  | (x, v) :: t, a, b =>
    if a < x then (if b = 0 then (x, v) :: t else (a, b) :: (x, v) :: t)
    else if a = x then (if b = 0 then t else (a, b) :: t)
    else (x, v) :: cellsWrite t a b

/-- Addresses strictly rising from `lo` on, and no byte 0. -/
def cellsFrom (lo : Nat) : List Host.Cell → Bool
  | [] => true
  | (a, v) :: t => decide (lo ≤ a) && decide (v ≠ 0) && cellsFrom (a + 1) t

/-- The address lies in one of the ranges. -/
def inRanges : List (Nat × Nat) → Nat → Bool
  | [], _ => false
  | (l, h) :: t, a => (decide (l ≤ a) && decide (a < h)) || inRanges t a

/-- The ranges less the address `a`. -/
def carve : List (Nat × Nat) → Nat → List (Nat × Nat)
  | [], _ => []
  | (l, h) :: t, a =>
    if l ≤ a ∧ a < h then
      (if l < a then [(l, a)] else []) ++ (if a + 1 < h then [(a + 1, h)] else []) ++ t
    else (l, h) :: carve t a

/-- The ranges with `[lo, hi)` joined in, where `lo < hi`. -/
def addRange : List (Nat × Nat) → Nat → Nat → List (Nat × Nat)
  | [], lo, hi => [(lo, hi)]
  | (l, h) :: t, lo, hi =>
    if h < lo then (l, h) :: addRange t lo hi
    else if hi < l then (lo, hi) :: (l, h) :: t
    else addRange t (min l lo) (max h hi)

/-- Ranges non-empty, strictly rising from `lo` on, no two touching. -/
def rangesFrom (lo : Nat) : List (Nat × Nat) → Bool
  | [] => true
  | (l, h) :: t => decide (lo ≤ l) && decide (l < h) && rangesFrom (h + 1) t

/-- The canonical form of memory: bytes and ranges in order, and no byte listed inside an unspecified range. -/
def Memory.wf (m : Memory) : Bool :=
  cellsFrom 0 m.cells && rangesFrom 0 m.unspec && m.cells.all (fun c => !inRanges m.unspec c.1)

/-- The content of an address is unspecified: a read of it draws a free value. -/
def Memory.unknown (m : Memory) (a : Nat) : Bool := inRanges m.unspec a

/-- The byte at an address whose content is specified. -/
def Memory.read (m : Memory) (a : Nat) : Byte := cellsRead m.cells a

/-- A byte stored: the address holds it, and its content is specified from then on. -/
def Memory.write (m : Memory) (a : Nat) (b : Byte) : Memory where
  cells := cellsWrite m.cells a b
  unspec := carve m.unspec a

/-- The content of the `len` addresses from `base` on becomes unspecified (R112, R581). -/
def Memory.forget (m : Memory) (base len : Nat) : Memory :=
  if len = 0 then m
  else
    { cells := m.cells.filter (fun c => !(decide (base ≤ c.1) && decide (c.1 < base + len)))
      unspec := addRange m.unspec base (base + len) }

/-- Bytes stored at consecutive addresses. -/
def Memory.writeList (m : Memory) : Nat → List Byte → Memory
  | _, [] => m
  | a, b :: bs => (m.write a b).writeList (a + 1) bs

end Sys2Proof.Machine
end

