-- ==== Sys2Proof/Machine/Breach.lean ====
section
/-! DEFINITION. The three buffers as address ranges (R100), and what a breach of the host discipline does to the engine's reads of
them (R111, R550, R591; log 15): the arena's content becomes a draw, while the engine's own record of what it holds (how many
entries, which slots, which sizes) stays. -/

namespace Sys2Proof.Machine

open Sys2Proof.Config

/-! ### The buffers -/

/-- The host address of an input-buffer offset (R100; no wrap, log 12). -/
def State.inAddr (s : State) (off : Nat) : Nat := s.regs.inBase.toNat + off

/-- The host address of an output-buffer offset. -/
def State.outAddr (s : State) (off : Nat) : Nat := s.regs.outBase.toNat + off

/-- IN_LEN. -/
def State.inLen (s : State) : Nat := s.regs.inLen.toNat

/-- OUT_LEN. -/
def State.outLen (s : State) : Nat := s.regs.outLen.toNat

/-- An address lies in the scratch arena (R100). -/
def State.inArena (s : State) (a : Nat) : Bool :=
  decide (s.regs.scrBase.toNat ≤ a) && decide (a < s.regs.scrBase.toNat + s.regs.scrLen.toNat)

/-- An address lies in the output buffer (R100). -/
def State.inOutput (s : State) (a : Nat) : Bool :=
  decide (s.regs.outBase.toNat ≤ a) && decide (a < s.regs.outBase.toNat + s.regs.outLen.toNat)

/-- An address lies in the input buffer (R100). -/
def State.inInput (s : State) (a : Nat) : Bool :=
  decide (s.regs.inBase.toNat ≤ a) && decide (a < s.regs.inBase.toNat + s.regs.inLen.toNat)

/-- Two ranges, given by base and length, share an address. -/
def rangesMeet (b l b' l' : Word) : Bool :=
  decide (b.toNat < b'.toNat + l'.toNat) && decide (b'.toNat < b.toNat + l.toNat) && l != 0 && l' != 0

/-- The arena shares an address with the input or the output buffer (R591). -/
def HostRegs.arenaShared (r : HostRegs) : Bool :=
  rangesMeet r.scrBase r.scrLen r.inBase r.inLen || rangesMeet r.scrBase r.scrLen r.outBase r.outLen

/-! ### A draw of the arena's content -/

/-- The old list with each element replaced where the new list has one; its length stays. -/
def redrawList {α : Type} (f : α → α → α) : List α → List α → List α
  | [], _ => []
  | a :: as, [] => a :: as
  | a :: as, b :: bs => f a b :: redrawList f as bs

/-- The old slots with each defined one replaced where the new slot is defined; which are defined stays. -/
def redrawSlots {α : Type} (f : α → α → α) (old new : Vector (Option α) 4) : Vector (Option α) 4 :=
  Vector.ofFn fun i => (vget old i.val none).map fun a => ((vget new i.val none).map (f a)).getD a

/-- `n` is the code of a frame marker (R133). -/
def isSof (n : BitVec 4) : Bool := n == 0 || n.toNat % 4 != 0

/-- A scan record: the offset and the intervals drawn, as many of them as there are. -/
def ScanRec.redraw (a b : ScanRec) : ScanRec := ⟨b.sosOff, redrawList (fun _ v => v) a.intervals b.intervals⟩

/-- A frame record: offset, code and scans drawn; the code stays one of a frame marker. -/
def FrameRec.redraw (a b : FrameRec) : FrameRec :=
  ⟨b.sofOff, if isSof b.n then b.n else a.n, redrawList ScanRec.redraw a.scans b.scans⟩

/-- The layout: every offset and marker drawn, as many records as there are. -/
def Layout.redraw (a b : Layout) : Layout :=
  { b with frames := redrawList FrameRec.redraw a.frames b.frames, aux := redrawList (fun _ v => v) a.aux b.aux }

/-- A trie: its codes drawn. -/
def HuffTable.redraw (a b : HuffTable) : HuffTable := ⟨b.codes, a.bytes⟩

/-- A plane: its coefficients or samples drawn. -/
def Plane.redraw : Plane → Plane → Plane
  | .dct bw bh old, .dct _ _ new => .dct bw bh (redrawList (fun _ v => v) old new)
  | .lossless sw sh old, .lossless _ _ new => .lossless sw sh (redrawList (fun _ v => v) old new)
  | p, _ => p

/-- Reconstructed or accumulated samples drawn. -/
def Samples.redraw (a b : Samples) : Samples := { a with data := redrawList (fun _ v => v) a.data b.data }

/-- An accumulator plane: its samples drawn. -/
def AccPlane.redraw (a b : AccPlane) : AccPlane := ⟨a.id, a.plane.redraw b.plane⟩

/-- The arena's content drawn. -/
def Arena.redraw (a b : Arena) : Arena where
  used := a.used
  layout := a.layout.redraw b.layout
  dcTables := redrawSlots HuffTable.redraw a.dcTables b.dcTables
  acTables := redrawSlots HuffTable.redraw a.acTables b.acTables
  planes := redrawSlots Plane.redraw a.planes b.planes
  rs := redrawSlots Samples.redraw a.rs b.rs
  acc := redrawList AccPlane.redraw a.acc b.acc

/-- The encoder's planes, blocks, frequencies and tables drawn; the image size, the predictors, the pending bits and the output
position stay. -/
def Enc.redraw (a b : Enc) : Enc := { b with w := a.w, h := a.h, pred := a.pred, obuf := a.obuf, opos := a.opos }

/-- What the engine keeps in the arena becomes a free value (R111, R550, U7). Registers are kept, the DHP's content and the Adobe
transform code in `hi` among them (log 15). -/
def State.drawArena (s : State) : State :=
  { s with arena := s.arena.redraw (freeArena s.draws), enc := s.enc.redraw (freeEnc s.draws), draws := s.draws + 1 }

/-- The state as an engine step finds it: after a breach every step draws the arena anew, once, at its start, so that two reads of one
byte in one step agree (log 15). -/
def State.refresh (s : State) : State := if s.breach.arena then s.drawArena else s

/-! ### What the engine leaves in host memory -/

/-- The engine's own use of the arena seen in host memory (R100, R106; log 13): unspecified once the engine allocated there. -/
def State.spill (s : State) : State :=
  { s with mem := if s.arena.used = 0 then s.mem else s.mem.forget s.regs.scrBase.toNat s.regs.scrLen.toNat }

/-- Bytes stored by the engine at consecutive addresses; one in the ranges `out`, which the host wrote in this operation, is unspecified
(R111, log 15). -/
def Memory.storeList (out : List (Nat × Nat)) : Memory → Nat → List Byte → Memory
  | m, _, [] => m
  | m, a, b :: bs => Memory.storeList out (if inRanges out a then m.forget a 1 else m.write a b) (a + 1) bs

/-- Output bytes stored by the engine (R104, R111). An address of the register block is memory to the engine, which is the model's choice
(log 12). -/
def State.store (s : State) (a : Nat) (bytes : List Byte) : State :=
  { s with mem := Memory.storeList s.breach.out s.mem a bytes }

end Sys2Proof.Machine
end

