-- ==== Sys2Proof/Machine/Ops.lean ====
section
/-! DEFINITION. The shared operations of every rule: the engine action with its two ways out (R16, R540, R549), the failure entry
(R545) and the end of an operation (R587), input reads and output writes (R101, R104), scratch allocation (R106), free values. -/

namespace Sys2Proof.Machine

open Sys2Proof.Config

/-- How an engine action ends early: `raise E`, which carries the state at the raise (R16), or a model fault (R549). -/
inductive Stop where
  | raise (e : ErrKind) (s : State)
  | fault (f : Fault)
  deriving DecidableEq, Repr

/-- An engine action: from a state to a value and the next state, or a stop. -/
abbrev Act (α : Type) := StateT State (Except Stop) α

/-- `raise E` (R16): nothing after it runs. -/
def raise {α : Type} (e : ErrKind) : Act α := fun s => .error (.raise e s)

/-- A model fault. -/
def stop {α : Type} (f : Fault) : Act α := fun _ => .error (.fault f)

/-- A read of engine state that nothing wrote (R549). -/
def undefinedRead {α : Type} (what : Unwritten) : Act α := stop (.undefinedRead what)

/-- `require` of the pseudocode: FormatError where the condition fails (R218). -/
def require (ok : Bool) : Act Unit := if ok then pure () else raise .formatError

/-- The value, or FormatError where there is none. -/
def orFormatError {α : Type} : Option α → Act α
  | some a => pure a
  | none => raise .formatError

/-- The value, or an UndefinedRead fault where there is none. -/
def orUndefined {α : Type} (what : Unwritten) : Option α → Act α
  | some a => pure a
  | none => undefinedRead what

/-- A state change. -/
def update (f : State → State) : Act Unit := fun s => .ok ((), f s)

/-- All engine state is discarded (R37 preamble, R583, R587): every element at its initial value, the engine idle (log 16). -/
def State.discard (s : State) : State :=
  { s with
    rd := Reader.init, qm := Coder.init, st := Stats.init, fr := Frame.init, sc := Scan.init, pr := Pred.init,
    tb := Tables.init, sq := Seq.init, hi := Hier.init, arena := Arena.init, enc := Enc.init,
    breach := Breach.init }

/-- The end of an operation (R587): the arena is released, BUSY falls, DONE rises, ERR says whether it failed. -/
def State.finish (s : State) (failed : Bool) : State :=
  { s.discard with regs := { s.regs with status := statusWord false true failed } }

/-- The registers of R545: the error code, and the results withdrawn. -/
def failRegs (e : ErrKind) (r : HostRegs) : HostRegs :=
  { r with
    errcode := e.code, outUsed := 0, info := 0, exifOff := 0xFFFFFFFF, exifLen := 0,
    imgWidth := if r.ctrl.getLsbD 1 then r.imgWidth else 0
    imgHeight := if r.ctrl.getLsbD 1 then r.imgHeight else 0 }

/-- TAKING THE EXCEPTION: failure entry (R545). The error code is written, the results are withdrawn, the output buffer's content
becomes unspecified (R112), and so does the arena's where the engine used it (log 13), and the operation ends with ERR = 1 (R587).
There is no handler and no return (R546): the host starts again. -/
def failEntry (e : ErrKind) (s : State) : State :=
  State.finish
    { s with regs := failRegs e s.regs, mem := s.spill.mem.forget (s.outAddr 0) s.outLen } true

/-- Success (R587): ERRCODE.KIND is 0 and the operation ends with ERR = 0. -/
def succeed (s : State) : State :=
  State.finish { s with regs := { s.regs with errcode := 0 } } false

/-- An action as a step: a raise takes the failure entry, a model fault stops. -/
def runAct (m : Act Unit) (s : State) : Host.Outcome State Fault Refusal :=
  match m s with
  | .ok ((), s') => .next s'
  | .error (.raise e s') => .next (failEntry e s')
  | .error (.fault f) => .fault f

/-- The content of a host address and the state after reading it: the byte stored there, or a draw where it is unspecified (R111,
R112, log 10). -/
def State.load (s : State) (a : Nat) : Byte × State :=
  if s.mem.unknown a then (freeByte s.draws, { s with draws := s.draws + 1 }) else (s.mem.read a, s)

/-- The content of a host address as the engine reads it: in the arena, once the engine allocated there, a draw (R111, R591: its own
writes may have changed the byte; log 13). An address of the register block is memory to the engine, which is the model's choice
(log 12). -/
def State.engineLoad (s : State) (a : Nat) : Byte × State :=
  if s.arena.used ≠ 0 ∧ s.inArena a = true then (freeByte s.draws, { s with draws := s.draws + 1 }) else s.load a

/-- The content of a host address, read by the engine. -/
def loadByte (a : Nat) : Act Byte := fun s => .ok (s.engineLoad a)

/-- MemRead(off, 1) (R101): FormatError where the byte lies at or beyond IN_LEN. -/
def memRead1 (off : Nat) : Act Byte := do
  let s ← get
  if off + 1 > s.inLen then raise .formatError
  else loadByte (s.inAddr off)

/-- MemRead(off, 2) (R101): big-endian, checked before either byte is read. -/
def memRead2 (off : Nat) : Act Nat := do
  let s ← get
  if off + 2 > s.inLen then raise .formatError
  else
    let hi ← loadByte (s.inAddr off)
    let lo ← loadByte (s.inAddr (off + 1))
    pure (hi.toNat * 256 + lo.toNat)

/-- `n` consecutive bytes of the input from `off` on. -/
def memReadList : Nat → Nat → Act (List Byte)
  | 0, _ => pure []
  | n + 1, off => do
    let b ← memRead1 off
    let bs ← memReadList n (off + 1)
    pure (b :: bs)

/-- MemWrite(off, 1, v) (R104): OutOfMemory where the byte lies at or beyond OUT_LEN. -/
def memWrite1 (off : Nat) (v : Byte) : Act Unit := do
  let s ← get
  if off + 1 > s.outLen then raise .outOfMemory
  else update fun s => s.store (s.outAddr off) [v]

/-- A value of a coefficient, predictor or product: itself in the signed 32-bit range; outside it the fault Overflow is recorded
and the value is free (R10, R548, log 7). -/
def checked32 (v : Int) : Act Int := fun s =>
  if inInt32 v then .ok (v, s)
  else .ok (freeInt s.draws, { s with draws := s.draws + 1, overflow := true })

/-- Blocks of a DCT plane: MCUX*H and MCUY*V, with MCUX = ceil(X/(8 HMAX)) (R45). -/
def dctBlocks (x hmax h : Nat) : Nat := ceilDiv x (8 * hmax) * h

/-- Samples of a lossless plane: MCUXL*H, with MCUXL = ceil(X/HMAX) (R45). -/
def losslessSamples (x hmax h : Nat) : Nat := ceilDiv x hmax * h

/-- The model's own count of bytes for an allocation (DESIGN CHOICE, log 5). -/
def modelBytes : AllocKind → Nat
  | .layoutRecord => 16
  | .trie m => 4 * m + 4
  | .planes process x y _ factors =>
    let hmax := factors.foldl (fun m f => max m f.1) 0
    let vmax := factors.foldl (fun m f => max m f.2) 0
    (factors.map fun f =>
      if process = 3 then 2 * ((losslessSamples x hmax f.1 + 1) * (losslessSamples y vmax f.2 + 1))
      else 256 * (dctBlocks x hmax f.1 * dctBlocks y vmax f.2)).sum
  | .samples w h => 2 * (w * h)
  | .accumulator w h => 4 * (w * h)
  | .encoder w h => 4 * (64 * (ceilDiv w 8 * ceilDiv h 8) + 128 * (ceilDiv w 16 * ceilDiv h 16))

/-- The size of an allocation, by the parameter ALLOC_BYTES (R107, D32). -/
def allocSize (p : Params) (k : AllocKind) : Nat :=
  match p.allocBytes with
  | .modelBytes => modelBytes k
  | .other n => allocOther n k

/-- The caller's limit: none where SIZE_LIMIT is 0 (R32, R106). -/
def overLimit (s : State) (size : Nat) : Bool :=
  s.regs.sizeLimit != 0 && decide (size > s.regs.sizeLimit.toNat)

/-- One scratch allocation (R106): a size of 0 is a FormatError, over the limit ImageTooLarge, no room OutOfMemory. Which of the
engine's state is a buffer of R106, and which are registers that need none, is the model's choice (log 5). -/
def alloc (k : AllocKind) : Act Nat := do
  let s ← get
  let size := allocSize s.params k
  if size = 0 then raise .formatError
  else if overLimit s size then raise .imageTooLarge
  else if s.arena.used + size > s.regs.scrLen.toNat then raise .outOfMemory
  else
    update fun s => { s with arena := { s.arena with used := s.arena.used + size } }
    pure size

/-- An allocation released (R106, R216). -/
def release (size : Nat) : Act Unit :=
  update fun s => { s with arena := { s.arena with used := s.arena.used - size } }

end Sys2Proof.Machine
end

