-- ==== Sys2Proof/Machine/Operands.lean ====
section
/-! DEFINITION. Operand forms: the length and payload fields of every marker segment (R131, R134-R143), and the selector SEL
(R158). A segment's marker has been read when these run: BP is the offset of its length field (R202). -/

namespace Sys2Proof.Machine

/-- byte[7:4]. -/
def hiNibble (b : Byte) : Nat := b.toNat / 16

/-- byte[3:0]. -/
def loNibble (b : Byte) : Nat := b.toNat % 16

/-- BP (R33). -/
def getBp : Act Nat := do
  let s ← get
  pure s.rd.bp

/-- `BP <- bp`. -/
def setBp (bp : Nat) : Act Unit := update fun s => { s with rd := { s.rd with bp := bp } }

/-- The length field Lx of the segment at BP: at least 2, and the segment inside the input (R131, R202). -/
def readLength : Act Nat := do
  let bp ← getBp
  let lx ← memRead2 bp
  let s ← get
  require (decide (2 ≤ lx) && decide (bp + lx ≤ s.inLen))
  pure lx

/-- `BP <- BP + Lx`: past the segment (R202). -/
def skipSegment (lx : Nat) : Act Unit := do
  let bp ← getBp
  setBp (bp + lx)

/-- The fields of a SOF or DHP payload (R134, R141): P, Y, X, and (C, H, V, Tq) of each component. -/
structure FrameHeader where
  p     : Nat
  y     : Nat
  x     : Nat
  comps : List (Byte × Nat × Nat × Nat)
  deriving DecidableEq, Repr

/-- The `n` component entries of a frame header from offset `p` on (R134). -/
def readFrameComps : Nat → Nat → Act (List (Byte × Nat × Nat × Nat))
  | 0, _ => pure []
  | n + 1, p => do
    let c ← memRead1 p
    let hv ← memRead1 (p + 1)
    let tq ← memRead1 (p + 2)
    let rest ← readFrameComps n (p + 3)
    pure ((c, hiNibble hv, loNibble hv, tq.toNat) :: rest)

/-- Nf of a frame header, with `Lx = 8 + 3*Nf` checked before the components are read (R134, R203, R218). -/
def readNf (lx : Nat) : Act Nat := do
  let bp ← getBp
  require (decide (8 ≤ lx))
  let nf ← memRead1 (bp + 7)
  require (decide (lx = 8 + 3 * nf.toNat))
  pure nf.toNat

/-- The payload of a SOF or DHP segment of length `lx` (R134, R141). -/
def readFrameHeader (lx : Nat) : Act FrameHeader := do
  let bp ← getBp
  let nf ← readNf lx
  let p ← memRead1 (bp + 2)
  let y ← memRead2 (bp + 3)
  let x ← memRead2 (bp + 5)
  let comps ← readFrameComps nf (bp + 8)
  pure ⟨p.toNat, y, x, comps⟩

/-- The fields of a SOS payload (R135): (Cs, Td, Ta) of each scan component, Ss, Se, Ah, Al. -/
structure ScanHeader where
  comps : List (Byte × Nat × Nat)
  ss    : Nat
  se    : Nat
  ah    : Nat
  al    : Nat
  deriving DecidableEq, Repr

/-- The `n` component entries of a scan header from offset `p` on (R135). -/
def readScanComps : Nat → Nat → Act (List (Byte × Nat × Nat))
  | 0, _ => pure []
  | n + 1, p => do
    let cs ← memRead1 p
    let t ← memRead1 (p + 1)
    let rest ← readScanComps n (p + 2)
    pure ((cs, hiNibble t, loNibble t) :: rest)

/-- Ns of a scan header, with `Lx = 6 + 2*Ns` and `Ns in 1..4` checked (R135, R205, R219). -/
def readNs (lx : Nat) : Act Nat := do
  let bp ← getBp
  require (decide (3 ≤ lx))
  let ns ← memRead1 (bp + 2)
  require (decide (lx = 6 + 2 * ns.toNat) && decide (1 ≤ ns.toNat) && decide (ns.toNat ≤ 4))
  pure ns.toNat

/-- The payload of a SOS segment of length `lx` (R135). -/
def readScanHeader (lx : Nat) : Act ScanHeader := do
  let bp ← getBp
  let ns ← readNs lx
  let comps ← readScanComps ns (bp + 3)
  let ss ← memRead1 (bp + 3 + 2 * ns)
  let se ← memRead1 (bp + 4 + 2 * ns)
  let a ← memRead1 (bp + 5 + 2 * ns)
  pure ⟨comps, ss.toNat, se.toNat, hiNibble a, loNibble a⟩

/-- The payload of a segment starts with the identifier (R143). -/
def payloadStarts (lx : Nat) (ident : List Byte) : Act Bool := do
  let bp ← getBp
  if lx < 2 + ident.length then pure false
  else
    let bs ← memReadList ident.length (bp + 2)
    pure (bs == ident)

/-- "JFIF\0" (R143). -/
def jfifIdent : List Byte := [0x4A, 0x46, 0x49, 0x46, 0x00]

/-- "Exif\0\0" (R143). -/
def exifIdent : List Byte := [0x45, 0x78, 0x69, 0x66, 0x00, 0x00]

/-- "Adobe" (R143). -/
def adobeIdent : List Byte := [0x41, 0x64, 0x6F, 0x62, 0x65]

/-- `count` table entries of `w` bytes each from offset `p` on, one byte or u16be (R137). -/
def readQEntries (w : Nat) : Nat → Nat → Act (List (BitVec 16))
  | 0, _ => pure []
  | n + 1, p => do
    let v ← if w = 1 then (do let b ← memRead1 p; pure b.toNat) else memRead2 p
    let rest ← readQEntries w n (p + w)
    pure (BitVec.ofNat 16 v :: rest)

/-- The routine selector SEL of a scan, from FT, SS and AH (R158). SEL[1:0] is forced to 0 outside the progressive process. -/
def selOf (ft : BitVec 4) (ss : BitVec 6) (ah : BitVec 4) : Byte :=
  (ft.setWidth 8 <<< 4) |||
  (if sofProgressive ft && ss != 0 then 2 else 0) ||| (if sofProgressive ft && ah != 0 then 1 else 0)

/-- SEL of the current scan. -/
def State.sel (s : State) : Byte := selOf s.fr.ft s.sc.ss s.sc.ah

end Sys2Proof.Machine
end

