-- ==== Sys2Proof/Machine/Huffman.lean ====
section
/-! DEFINITION. Huffman primitives: BuildTrie (R290), NextBit (R291), DecodeHuff (R292), Receive (R293), Extend (R294). -/

namespace Sys2Proof.Machine

/-- The codewords of one length, from `code` on: the codes, the next code, the symbols left; none where the code is overfull
(R290). -/
def assignLength (len : Nat) : Nat → Nat → List Byte → Option (List Code × Nat × List Byte)
  | 0, code, vals => some ([], code, vals)
  | _ + 1, _, [] => none
  | n + 1, code, v :: vals =>
    if code ≥ 2 ^ len then none
    else (assignLength len n (code + 1) vals).map fun r => (⟨code, len, v⟩ :: r.1, r.2)

/-- The canonical code list from length `len` on (R290). -/
def assignCodes (len : Nat) : List Nat → Nat → List Byte → Option (List Code)
  | [], _, _ => some []
  | n :: counts, code, vals =>
    match assignLength len n code vals with
    | none => none
    | some (codes, code', vals') => (assignCodes (len + 1) counts (code' * 2) vals').map (codes ++ ·)

/-- BuildTrie(L[1..16], V) (R290): none where an overfull length list raises FormatError. -/
def buildTrie (bits : List Nat) (vals : List Byte) : Option (List Code) := assignCodes 1 bits 0 vals

/-- NextBit() (R291): FormatError where the interval's bytes are used up. -/
def nextBit : Act Bool := do
  let s ← get
  if s.rd.bitCnt = 0 then
    if s.rd.bp ≥ s.rd.segEnd then raise .formatError
    else
      let b ← memRead1 s.rd.bp
      update fun s => { s with rd := { s.rd with
        bp := s.rd.bp + (if b = 0xFF then 2 else 1), bitBuf := b, bitCnt := 7 } }
      pure (b.getLsbD 7)
  else
    let n := s.rd.bitCnt - 1
    update fun s => { s with rd := { s.rd with bitCnt := n } }
    pure (s.rd.bitBuf.getLsbD n)

/-- A bit as a number. -/
def bitVal (b : Bool) : Nat := if b then 1 else 0

/-- The symbol of a codeword, if it is one (R292). -/
def findCode (codes : List Code) (code len : Nat) : Option Byte :=
  (codes.find? fun c => c.code == code && c.len == len).map (·.sym)

/-- The trie walk of R292 with `fuel` bits left: FormatError where no leaf is reached. -/
def walkTrie (codes : List Code) : Nat → Nat → Nat → Act Byte
  | 0, _, _ => raise .formatError
  | fuel + 1, code, len => do
    let b ← nextBit
    let code' := 2 * code + bitVal b
    match findCode codes code' (len + 1) with
    | some sym => pure sym
    | none => walkTrie codes fuel code' (len + 1)

/-- DecodeHuff(T) (R292): an undefined table is a FormatError; at most 16 bits are read. -/
def decodeHuff (t : Option HuffTable) : Act Byte := do
  let t ← orFormatError t
  walkTrie t.codes 16 0 0

/-- Receive from a value `v` already read (R293). -/
def receiveFrom : Nat → Nat → Act Nat
  | 0, v => pure v
  | n + 1, v => do
    let b ← nextBit
    receiveFrom n (2 * v + bitVal b)

/-- Receive(s) (R293): s bits, the first one most significant. -/
def receive (s : Nat) : Act Nat := receiveFrom s 0

/-- Extend(v, s) (R294). -/
def extend (v s : Nat) : Int :=
  if s = 0 then 0
  else if v < 2 ^ (s - 1) then (v : Int) - 2 ^ s + 1
  else v

end Sys2Proof.Machine
end

