-- ==== Sys2Proof/Machine/Mcu.lean ====
section
/-! DEFINITION. The MCU traversal state machine: unit geometry (R250-R254), the planes (R45, R260), scan parameter and coverage
checks (R255-R257), restart intervals and the driver (R258-R269). -/

namespace Sys2Proof.Machine

/-- Component info of frame component `c` (R39). -/
def Frame.compAt (f : Frame) (c : Nat) : Comp := vget f.comp c default

/-- H[c]. -/
def Frame.hOf (f : Frame) (c : Nat) : Nat := (f.compAt c).h.toNat

/-- V[c]. -/
def Frame.vOf (f : Frame) (c : Nat) : Nat := (f.compAt c).v.toNat

/-- XC[c] = ceil(X * H[c] / HMAX) (R39). -/
def Frame.xc (f : Frame) (c : Nat) : Nat := ceilDiv (f.x.toNat * f.hOf c) f.hmax.toNat

/-- YC[c] = ceil(Y * V[c] / VMAX) (R39). -/
def Frame.yc (f : Frame) (c : Nat) : Nat := ceilDiv (f.y.toNat * f.vOf c) f.vmax.toNat

/-- The frame is lossless (R133). -/
def Frame.isLossless (f : Frame) : Bool := sofLossless f.ft

/-- The frame is differential: FT[2] (R301, R405). -/
def Frame.isDifferential (f : Frame) : Bool := sofDifferential f.ft

/-- The frame is arithmetic-coded: FT[3] (R133). -/
def Frame.isArithmetic (f : Frame) : Bool := sofArithmetic f.ft

/-- Units of an interleaved scan per unit row: MCUX (R250) or MCUXL (R254). -/
def Frame.mcuCols (f : Frame) : Nat :=
  ceilDiv f.x.toNat (if f.isLossless then f.hmax.toNat else 8 * f.hmax.toNat)

/-- Unit rows of an interleaved scan: MCUY (R250) or MCUYL (R254). -/
def Frame.mcuRows (f : Frame) : Nat :=
  ceilDiv f.y.toNat (if f.isLossless then f.vmax.toNat else 8 * f.vmax.toNat)

/-- Units of a non-interleaved scan of `c` per row: blocks (R251) or samples (R254). -/
def Frame.soloCols (f : Frame) (c : Nat) : Nat := if f.isLossless then f.xc c else ceilDiv (f.xc c) 8

/-- Unit rows of a non-interleaved scan of `c` (R251, R254). -/
def Frame.soloRows (f : Frame) (c : Nat) : Nat := if f.isLossless then f.yc c else ceilDiv (f.yc c) 8

/-- SC[j] (R40). -/
def Scan.compOf (sc : Scan) (j : Nat) : Nat := (vget sc.sc j 0).toNat

/-- The scan's components, in scan order (R40). -/
def Scan.comps (sc : Scan) : List Nat := (List.range sc.ns.toNat).map sc.compOf

/-- The scan is interleaved (R250). -/
def Scan.interleaved (sc : Scan) : Bool := decide (1 < sc.ns.toNat)

/-- Units per unit row of the current scan. -/
def State.unitCols (s : State) : Nat :=
  if s.sc.interleaved then s.fr.mcuCols else s.fr.soloCols (s.sc.compOf 0)

/-- NUNITS of the current scan (R250, R251, R254). -/
def State.unitCount (s : State) : Nat :=
  if s.sc.interleaved then s.fr.mcuCols * s.fr.mcuRows
  else s.fr.soloCols (s.sc.compOf 0) * s.fr.soloRows (s.sc.compOf 0)

/-- The entries of one scan component in MCUD: row by row (R252). -/
def mcuEntriesOf (j h v : Nat) : List McuEntry :=
  (List.range v).flatMap fun dy => (List.range h).map fun dx => ⟨j, dx, dy⟩

/-- MCUD of the current scan (R252). -/
def State.mcuEntries (s : State) : List McuEntry :=
  if s.sc.interleaved then
    (List.range s.sc.ns.toNat).flatMap fun j =>
      mcuEntriesOf j (s.fr.hOf (s.sc.compOf j)) (s.fr.vOf (s.sc.compOf j))
  else [⟨0, 0, 0⟩]

/-- The block (R253, R251) or sample (R254) that a descriptor entry addresses in unit UNIT. -/
def State.addressOf (s : State) (e : McuEntry) : Address :=
  let c := s.sc.compOf e.j
  let cols := s.unitCols
  let mx := s.sc.unit % cols
  let my := s.sc.unit / cols
  if s.sc.interleaved then ⟨c, mx * s.fr.hOf c + e.dx, my * s.fr.vOf c + e.dy⟩ else ⟨c, mx, my⟩

/-- The address of the block or sample decoded next. -/
def currentAddress : Act Address := do
  let s ← get
  let e ← orUndefined .descriptor (s.sc.mcud[s.sc.entry]?)
  pure (s.addressOf e)

/-! ### Planes (R45, R260) -/

/-- PLANE[c]. -/
def State.plane (s : State) (c : Nat) : Option Plane := vget s.arena.planes c none

/-- Block `(x, y)` of a DCT plane, if it has one. -/
def Plane.block? : Plane → Nat → Nat → Option Block
  | .dct bw bh blocks, x, y => if x < bw ∧ y < bh then blocks[y * bw + x]? else none
  | .lossless _ _ _, _, _ => none

/-- The plane with a block replaced. -/
def Plane.setBlock : Plane → Nat → Nat → Block → Plane
  | .dct bw bh blocks, x, y, b => .dct bw bh (blocks.set (y * bw + x) b)
  | p, _, _, _ => p

/-- Sample `(x, y)` of a lossless plane, which stands at `[y+1][x+1]` (R260). -/
def Plane.sample? : Plane → Nat → Nat → Option (BitVec 16)
  | .lossless sw sh cells, x, y => if x < sw ∧ y < sh then cells[(y + 1) * (sw + 1) + (x + 1)]? else none
  | .dct _ _ _, _, _ => none

/-- The plane with a sample replaced (R260). -/
def Plane.setSample : Plane → Nat → Nat → BitVec 16 → Plane
  | .lossless sw sh cells, x, y, v => .lossless sw sh (cells.set ((y + 1) * (sw + 1) + (x + 1)) v)
  | p, _, _, _ => p

/-- The addressed block, if a plane of the frame holds it. -/
def State.block? (s : State) (a : Address) : Option Block := (s.plane a.c).bind fun p => p.block? a.x a.y

/-- The addressed lossless sample, if a plane of the frame holds it. -/
def State.sample? (s : State) (a : Address) : Option (BitVec 16) := (s.plane a.c).bind fun p => p.sample? a.x a.y

/-- The state with PLANE[c] changed. -/
def State.mapPlane (s : State) (c : Nat) (f : Plane → Plane) : State :=
  { s with arena := { s.arena with planes := vset s.arena.planes c ((s.plane c).map f) } }

/-- The addressed block. -/
def getBlock (a : Address) : Act Block := do
  let s ← get
  orUndefined .plane (s.block? a)

/-- The addressed block replaced. -/
def setBlock (a : Address) (b : Block) : Act Unit :=
  update fun s => s.mapPlane a.c fun p => p.setBlock a.x a.y b

/-- `blk[k]` of the addressed block. -/
def getCoeff (a : Address) (k : Nat) : Act Int := do
  let b ← getBlock a
  pure (vget b k 0)

/-- `blk[k] <- v`. -/
def setCoeff (a : Address) (k : Nat) (v : Int) : Act Unit := do
  let b ← getBlock a
  setBlock a (vset b k v)

/-- S(c, x, y) as an integer (R405). -/
def getSample (a : Address) : Act Int := do
  let s ← get
  let v ← orUndefined .plane (s.sample? a)
  pure (v.toNat : Int)

/-- S(c, x, y) <- v. -/
def setSample (a : Address) (v : BitVec 16) : Act Unit := do
  let s ← get
  let _ ← orUndefined .plane (s.sample? a)
  update fun s => s.mapPlane a.c fun p => p.setSample a.x a.y v

/-! ### Scan checks (R255-R258, R407) -/

/-- The scan parameter check (R255). -/
def scanParamsOk (n : BitVec 4) (p ns ss se ah al : Nat) : Bool :=
  if sofProcess n ≤ 1 then decide (ss = 0 ∧ se = 63 ∧ ah = 0 ∧ al = 0)
  else if sofProcess n = 2 then
    decide (ss ≤ se ∧ se ≤ 63) && decide (ss = 0 → se = 0) && decide (ss > 0 → ns = 1) &&
    decide (ah = 0 ∨ al + 1 = ah) && decide (al ≤ 13)
  else
    (if sofDifferential n then decide (ss = 0) else decide (1 ≤ ss ∧ ss ≤ 7)) &&
    decide (se = 0) && decide (ah = 0) && decide (al < p)

/-- COVER[c][k] (R49). -/
def coverAt (cover : Vector (Vector (Option Nat) 64) 4) (c k : Nat) : Option Nat :=
  vget (vget cover c (Vector.replicate 64 none)) k none

/-- The coverage condition of one coefficient (R256). -/
def coverOk (cover : Vector (Vector (Option Nat) 64) 4) (c ss ah k : Nat) : Bool :=
  (if ah = 0 then coverAt cover c k == none else coverAt cover c k == some ah) &&
  (ss == 0 || coverAt cover c 0 != none)

/-- The coefficients `ss..se` of a scan. -/
def band (ss se : Nat) : List Nat := (List.range (se + 1 - ss)).map (ss + ·)

/-- The coverage record after a scan delivered bit `al` of the band of component `c` (R256). -/
def coverSet (cover : Vector (Vector (Option Nat) 64) 4) (c ss se al : Nat) : Vector (Vector (Option Nat) 64) 4 :=
  vset cover c ((band ss se).foldl (fun row k => vset row k (some al))
    (vget cover c (Vector.replicate 64 none)))

/-- The coverage update of one scan component (R256): a DCT frame tiles its band; a lossless frame has each component once. -/
def coverComp (c : Nat) : Act Unit := do
  let s ← get
  if s.fr.isLossless then require (!vget s.fr.seen c false)
  else
    require ((band s.sc.ss.toNat s.sc.se.toNat).all
      (coverOk s.tb.cover c s.sc.ss.toNat s.sc.ah.toNat))
    update fun s => { s with tb := { s.tb with
      cover := coverSet s.tb.cover c s.sc.ss.toNat s.sc.se.toNat s.sc.al.toNat } }

/-- The coverage condition at frame end (R257). -/
def State.coverComplete (s : State) : Bool :=
  (List.range s.fr.nf.toNat).all fun c =>
    if s.fr.isLossless then vget s.fr.seen c false
    else (List.range 64).all fun k => coverAt s.tb.cover c k == some 0

/-- NI (R258). -/
def intervalCount (ri nunits : Nat) : Nat := if ri = 0 then 1 else ceilDiv nunits ri

/-- A lossless scan's RI is 0 or a multiple of the units per unit row (R407). -/
def State.restartRowsOk (s : State) : Bool :=
  !s.fr.isLossless || s.tb.ri == 0 || s.tb.ri.toNat % s.unitCols == 0

/-! ### Intervals (R258, R265, R267) -/

/-- The first unit of interval INTV (R258). -/
def State.firstUnit (s : State) : Nat := s.sc.intv * s.tb.ri.toNat

/-- One past the last unit of interval INTV (R258). -/
def State.endUnit (s : State) : Nat :=
  if s.tb.ri = 0 then s.sc.nunits else min ((s.sc.intv + 1) * s.tb.ri.toNat) s.sc.nunits

/-- The first sample row of component `c` in the current interval (R407). -/
def State.firstRow (s : State) (c : Nat) : Nat :=
  let r0 := s.firstUnit / s.unitCols
  if s.sc.interleaved then r0 * s.fr.vOf c else r0

/-- The frame record being decoded (R215). -/
def State.frameRec (s : State) : Option FrameRec := s.arena.layout.frames[s.sq.frameIx]?

/-- The scan record being decoded (R215). -/
def State.scanRec (s : State) : Option ScanRec := s.frameRec.bind fun f => f.scans[s.sq.scanIx]?

/-- InitDec (R342). -/
def initDec : Coder := ⟨0, 0, -16, false⟩

/-- The predictor state at an interval start (R46, R265); a row of LDB per component, as wide as its plane. LDB is registers and no
allocation of R106, which is the model's choice (log 5). -/
def Frame.freshPred (f : Frame) : Pred :=
  { Pred.init with
    ldb := Vector.ofFn fun c =>
      if f.isLossless then List.replicate (losslessSamples f.x.toNat f.hmax.toNat (f.hOf c.val)) 0 else [] }

/-- The state at the entry of an interval (R265): in every frame BITCNT is 0 (R47) and every bin is 0 (R48, R420). BITBUF is initialised
there too (the table of section 4 of 10_state.md), and that its value is 0 is the model's choice (log 9). -/
def State.enterInterval (s : State) (iv : Interval) : State :=
  { s with
    rd := { bp := iv.off, segEnd := iv.off + iv.len, bitBuf := 0, bitCnt := 0 }
    pr := s.fr.freshPred
    st := Stats.init
    qm := if s.fr.isArithmetic then initDec else s.qm
    sc := { s.sc with unit := s.firstUnit, entry := 0 }
    sq := { s.sq with phase := .unit } }

/-- Interval entry (R265, R266). -/
def intervalEntry : Act Unit := do
  let s ← get
  let sr ← orUndefined .layout s.scanRec
  let iv ← orUndefined .layout (sr.intervals[s.sc.intv]?)
  update fun s => s.enterInterval iv

/-- The interval exit check (R267): a Huffman interval must be consumed; an arithmetic one is checked by ARITH_TRAILING. -/
def exitCheck : Act Unit := do
  let s ← get
  if s.fr.isArithmetic then
    match s.params.arithTrailing with
    | .ignore => pure ()
    | .reject => require (decide (s.rd.segEnd ≤ s.rd.bp))
  else require (s.rd.bp == s.rd.segEnd)

/-- After the last interval of a scan: the next scan of the frame, or the frame's end (R215). -/
def scanEnd : Act Unit := do
  let s ← get
  let f ← orUndefined .layout s.frameRec
  if s.sq.scanIx + 1 < f.scans.length then
    update fun s => { s with sq := { s.sq with scanIx := s.sq.scanIx + 1, phase := .replaySos } }
  else update fun s => { s with sq := { s.sq with phase := .frameEnd } }

/-- The driver after one block or sample (R266): the next descriptor entry, the next unit, or the interval's exit. -/
def advance : Act Unit := do
  let s ← get
  if s.sc.entry + 1 < s.sc.mcud.length then
    update fun s => { s with sc := { s.sc with entry := s.sc.entry + 1 } }
  else if s.sc.unit + 1 < s.endUnit then
    update fun s => { s with sc := { s.sc with entry := 0, unit := s.sc.unit + 1 } }
  else
    exitCheck
    if s.sc.intv + 1 < s.sc.ni then
      update fun s => { s with sc := { s.sc with intv := s.sc.intv + 1 }, sq := { s.sq with phase := .interval } }
    else scanEnd

end Sys2Proof.Machine
end

