-- ==== Sys2Proof/Machine/Symbols.lean ====
section
/-! DEFINITION. The meanings of the Huffman symbols (R153, R154, R156, R301, R302, R314, R316, R400), each with its extra bits, in
the block (or lossless sample) in progress. The codeword itself has been read when these run. -/

namespace Sys2Proof.Machine

/-- The block in progress; a symbol without one is an UndefinedRead. -/
def theBlock : Act OpenBlock := do
  let s ← get
  orUndefined .block s.sq.block

/-- The block in progress, opened or moved on. -/
def setOpen (b : OpenBlock) : Act Unit := update fun s => { s with sq := { s.sq with block := some b } }

/-- The block in progress is complete. -/
def closeBlock : Act Unit := update fun s => { s with sq := { s.sq with block := none } }

/-- The last coefficient of the band: 63 in a sequential block (R302), SE in a progressive one (R314, R316). -/
def State.bandEnd (s : State) (b : OpenBlock) : Nat := if b.mode = .seq then 63 else s.sc.se.toNat

/-- On to coefficient `k`: the block is complete past the band's end (R302, R314, R316). -/
def moveTo (b : OpenBlock) (k : Nat) : Act Unit := do
  let s ← get
  if k ≤ s.bandEnd b then setOpen { b with k := k } else closeBlock

/-- The DC value of a difference: the difference itself in a differential frame, else PRED[c] + difference, which becomes
PRED[c] (R301, R350); checked for Overflow. -/
def predictDc (c : Nat) (diff : Int) : Act Int := do
  let s ← get
  if s.fr.isDifferential then checked32 diff
  else
    let v ← checked32 (vget s.pr.pred c 0 + diff)
    update fun s => { s with pr := { s.pr with pred := vset s.pr.pred c v } }
    pure v

/-- `blk[k] <- v << AL`, checked for Overflow (R301, R314, R356, R358; log 26). -/
def storeShifted (a : Address) (k : Nat) (v : Int) : Act Unit := do
  let s ← get
  let w ← checked32 (v * 2 ^ s.sc.al.toNat)
  setCoeff a k w

/-- A DC category symbol `t` (R153, R301): t extra bits, the difference, the prediction, `blk[0]`. A sequential block goes on with
its AC symbols at k = 1; a progressive DC block is complete. -/
def dcCategoryAct (t : Nat) : Act Unit := do
  let b ← theBlock
  let v ← receive t
  let val ← predictDc b.addr.c (extend v t)
  storeShifted b.addr 0 val
  if b.mode = .seq then setOpen { b with k := 1, stage := .ac } else closeBlock

/-- Correct(k) (R295): one correction bit for a non-zero coefficient; it moves away from zero by 2^AL unless bit AL is set. -/
def correct (a : Address) (k : Nat) : Act Unit := do
  let bit ← nextBit
  let s ← get
  let v ← getCoeff a k
  let p1 : Int := 2 ^ s.sc.al.toNat
  if bit && (v / p1) % 2 == 0 then setCoeff a k (if v ≥ 0 then v + p1 else v - p1) else pure ()

/-- The end-of-band pass from `k` on (R316): every non-zero coefficient of the rest of the band is corrected. -/
def eobPass (a : Address) : Nat → Nat → Act Unit
  | 0, _ => pure ()
  | fuel + 1, k => do
    let s ← get
    if k ≤ s.sc.se.toNat then
      let v ← getCoeff a k
      if v ≠ 0 then correct a k else pure ()
      eobPass a fuel (k + 1)
    else pure ()

/-- `EOBRUN <- n`. -/
def setEobrun (n : Nat) : Act Unit := update fun s => { s with pr := { s.pr with eobrun := n } }

/-- The end-of-band pass of one block and the run counted down (R316). -/
def eobBlock (a : Address) (k : Nat) : Act Unit := do
  eobPass a 64 k
  let s ← get
  setEobrun (s.pr.eobrun - 1)

/-- An end-of-band symbol with run exponent `r` (R154): EOB (r = 0) or EOBn. In a sequential block EOB ends it and EOBn is a
FormatError (R302); in a first scan the run counts this block (R314); in a refinement scan the rest of the band is
corrected (R316). -/
def endOfBandAct (r : Nat) : Act Unit := do
  let b ← theBlock
  if b.mode = .seq then
    require (r == 0)
    closeBlock
  else
    let v ← receive r
    if b.mode = .refine then
      setEobrun (2 ^ r + v)
      eobBlock b.addr b.k
    else setEobrun (2 ^ r + v - 1)
    closeBlock

/-- The position reached by skipping `r` zero-history coefficients from `k`, correcting every non-zero one passed (R316). -/
def refineSkip (a : Address) : Nat → Nat → Nat → Act Nat
  | 0, k, _ => pure k
  | fuel + 1, k, r => do
    let s ← get
    if k ≤ s.sc.se.toNat then
      let v ← getCoeff a k
      if v ≠ 0 then
        correct a k
        refineSkip a fuel (k + 1) r
      else if r = 0 then pure k
      else refineSkip a fuel (k + 1) (r - 1)
    else pure k

/-- ZRL (R154): 16 zero coefficients. In a sequential or first scan the index may reach at most one past the band (R302, R314); in
a refinement scan it skips 16 zero-history coefficients and may run off the band (R316, conflict C7). -/
def zrlAct : Act Unit := do
  let b ← theBlock
  let s ← get
  if b.mode = .refine then
    let k ← refineSkip b.addr 64 b.k 15
    moveTo b (k + 1)
  else
    require (decide (b.k + 16 ≤ s.bandEnd b + 1))
    moveTo b (b.k + 16)

/-- A coefficient symbol (R154): skip `r` zeros, then one coefficient of category `sz`. Sequential R302, first scan R314 (shifted by
AL), refinement R316 (sz must be 1). -/
def coeffAct (r sz : Nat) : Act Unit := do
  let b ← theBlock
  let s ← get
  if b.mode = .refine then
    require (sz == 1)
    let bit ← nextBit
    let p1 : Int := 2 ^ s.sc.al.toNat
    let k ← refineSkip b.addr 64 b.k r
    require (decide (k ≤ s.bandEnd b))
    setCoeff b.addr k (if bit then p1 else -p1)
    moveTo b (k + 1)
  else
    require (decide (b.k + r ≤ s.bandEnd b))
    let v ← receive sz
    if b.mode = .seq then setCoeff b.addr (b.k + r) (extend v sz)
    else storeShifted b.addr (b.k + r) (extend v sz)
    moveTo b (b.k + r + 1)

/-! ### Lossless samples (R404-R412) -/

/-- PRED_SV(SS, Ra, Rb, Rc) (R406). -/
def predictSv (ss : Nat) (ra rb rc : Int) : Int :=
  match ss with
  | 1 => ra
  | 2 => rb
  | 3 => rc
  | 4 => ra + rb - rc
  | 5 => ra + (rb - rc) / 2
  | 6 => rb + (ra - rc) / 2
  | 7 => (ra + rb) / 2
  | _ => 0

/-- Px of sample `a` (R405): 0 in a differential frame, 2^(P-Pt-1) at the interval start, the left sample in the interval's first
row, the sample above at a row start, else predictor SS. -/
def predictSample (a : Address) : Act Int := do
  let s ← get
  let y0 := s.firstRow a.c
  if s.fr.isDifferential then pure 0
  else if a.y = y0 ∧ a.x = 0 then pure (2 ^ (s.fr.p.toNat - s.sc.al.toNat - 1))
  else if a.y = y0 then getSample { a with x := a.x - 1 }
  else if a.x = 0 then getSample { a with y := a.y - 1 }
  else
    let ra ← getSample { a with x := a.x - 1 }
    let rb ← getSample { a with y := a.y - 1 }
    let rc ← getSample { a with x := a.x - 1, y := a.y - 1 }
    pure (predictSv s.sc.ss.toNat ra rb rc)

/-- The row of its unit that a sample lies in (R408). -/
def Frame.unitRow (f : Frame) (a : Address) : Nat := a.y % f.vOf a.c

/-- The differences last decoded in the rows of component `c` (R412). -/
def Pred.leftRow (p : Pred) (c : Nat) : Vector Int 4 := vget p.lda c (Vector.replicate 4 0)

/-- LDA before the sample at `a`, in row `row` of its unit: the difference of the sample to the left in the same row (R412, log 39). -/
def Pred.left (p : Pred) (a : Address) (row : Nat) : Int := vget (p.leftRow a.c) row 0

/-- LDA replaced. -/
def Pred.setLeft (p : Pred) (a : Address) (row : Nat) (diff : Int) : Pred :=
  { p with lda := vset p.lda a.c (vset (p.leftRow a.c) row diff) }

/-- LDB before the sample at `a`: the difference of the sample above (R412). -/
def Pred.above (p : Pred) (a : Address) : Int := lget (vget p.ldb a.c []) a.x 0

/-- The difference history after a sample (R405, R412). -/
def Pred.recordDiff (p : Pred) (a : Address) (row : Nat) (diff : Int) : Pred :=
  { p.setLeft a row diff with ldb := vset p.ldb a.c ((vget p.ldb a.c []).set a.x diff) }

/-- Store(c, x, y, diff) (R405): the sample is (Px + diff) mod 2^16 (R404), and the history is updated. -/
def storeSample (a : Address) (diff : Int) : Act Unit := do
  let px ← predictSample a
  setSample a (BitVec.ofInt 16 (px + diff))
  update fun s => { s with pr := s.pr.recordDiff a (s.fr.unitRow a) diff }

/-- A lossless difference symbol `t` (R156, R400): t extra bits, the difference, the sample. -/
def losslessDiffAct (t : Nat) : Act Unit := do
  let b ← theBlock
  let v ← receive t
  storeSample b.addr (extend v t)
  closeBlock

/-! ### Reading the next symbol -/

/-- The space of the next symbol: a lossless difference, a DC category, or an AC symbol. -/
def OpenBlock.symbolSpace (b : OpenBlock) : Space :=
  match b.stage with
  | .ac => .symAc
  | .dc => if b.mode = .lossless then .symLossless else .symDc

/-- The table the next symbol is decoded with: `HT[DC][TD[c]]` or `HT[AC][TA[c]]` (R300, R400). -/
def State.symbolTable (s : State) (b : OpenBlock) : Option HuffTable :=
  match b.stage with
  | .ac => vget s.arena.acTables (s.fr.compAt b.addr.c).ta.toNat none
  | .dc => vget s.arena.dcTables (s.fr.compAt b.addr.c).td.toNat none

/-- The next symbol of the block in progress as an instruction: one codeword (R292), decoded in its space; a byte that is no symbol
is a FormatError (R160). -/
def fetchSymbol : Act Instr := do
  let b ← theBlock
  let s ← get
  let sym ← decodeHuff (s.symbolTable b)
  orFormatError (decodeInstr b.symbolSpace [sym])

/-- The meaning of a symbol instruction; any other instruction is no symbol. -/
def symbolAct : Instr → Act Unit
  | .dcCategory t => dcCategoryAct t.toNat
  | .losslessDiff t => losslessDiffAct t.toNat
  | .eob => endOfBandAct 0
  | .zrl => zrlAct
  | .eobn r => endOfBandAct r.toNat
  | .acCoeff r s => coeffAct r.toNat s.toNat
  | _ => undefinedRead .selector

/-- Symbols until the block in progress is complete, at most `fuel` of them (R300). -/
def runSymbols : Nat → Act Unit
  | 0 => stop .loopBound
  | fuel + 1 => do
    let i ← fetchSymbol
    symbolAct i
    let s ← get
    if s.sq.block.isSome then runSymbols fuel else pure ()

/-- The symbols of one block: at most one DC and 63 AC symbols, as every AC symbol moves k on (R302, R314, R316). -/
def symbolBound : Nat := 66

/-- DC_CATEGORY (R153, R301). -/
def execDcCategory (t : BitVec 4) (s : State) : Host.Outcome State Fault Refusal := runAct (dcCategoryAct t.toNat) s

/-- LOSSLESS_DIFF (R156, R400). -/
def execLosslessDiff (t : BitVec 4) (s : State) : Host.Outcome State Fault Refusal := runAct (losslessDiffAct t.toNat) s

/-- EOB (R154). -/
def execEob (s : State) : Host.Outcome State Fault Refusal := runAct (endOfBandAct 0) s

/-- ZRL (R154). -/
def execZrl (s : State) : Host.Outcome State Fault Refusal := runAct zrlAct s

/-- EOBn (R154). -/
def execEobn (r : BitVec 4) (s : State) : Host.Outcome State Fault Refusal := runAct (endOfBandAct r.toNat) s

/-- AC_COEFF (R154). -/
def execAcCoeff (r sz : BitVec 4) (s : State) : Host.Outcome State Fault Refusal := runAct (coeffAct r.toNat sz.toNat) s

end Sys2Proof.Machine
end

