-- ==== Sys2Proof/Machine/HuffRoutines.lean ====
section
/-! DEFINITION. The Huffman routines, one block or sample each (R300, R310, R312, R314, R316, R400). -/

namespace Sys2Proof.Machine

/-- HUF_SEQ (R300): the DC symbol, then the AC symbols to the block's end. -/
def hufSeqAct : Act Unit := do
  let a ← currentAddress
  setOpen ⟨.seq, a, 0, .dc⟩
  runSymbols symbolBound

/-- HUF_DC_FIRST (R310): one DC symbol, stored shifted by AL. -/
def hufDcFirstAct : Act Unit := do
  let a ← currentAddress
  setOpen ⟨.first, a, 0, .dc⟩
  runSymbols symbolBound

/-- `v | 2^al` on the two's-complement integer (R312, R357). -/
def setBitInt (v : Int) (al : Nat) : Int := if (v / 2 ^ al) % 2 = 0 then v + 2 ^ al else v

/-- HUF_DC_REFINE (R312): one bit; 1 sets bit AL of `blk[0]`. -/
def hufDcRefineAct : Act Unit := do
  let a ← currentAddress
  let bit ← nextBit
  let s ← get
  let v ← getCoeff a 0
  if bit then setCoeff a 0 (setBitInt v s.sc.al.toNat) else pure ()

/-- The symbols of a band from SS on (R314, R316): none where SS is past SE. -/
def runBand (b : OpenBlock) : Act Unit := do
  moveTo b b.k
  let s ← get
  if s.sq.block.isSome then runSymbols symbolBound else pure ()

/-- HUF_AC_FIRST (R314): a block inside an end-of-band run only counts the run down. -/
def hufAcFirstAct : Act Unit := do
  let a ← currentAddress
  let s ← get
  if s.pr.eobrun > 0 then setEobrun (s.pr.eobrun - 1)
  else runBand ⟨.first, a, s.sc.ss.toNat, .ac⟩

/-- HUF_AC_REFINE (R316): a block inside an end-of-band run is corrected and counts the run down. -/
def hufAcRefineAct : Act Unit := do
  let a ← currentAddress
  let s ← get
  if s.pr.eobrun > 0 then eobBlock a s.sc.ss.toNat
  else runBand ⟨.refine, a, s.sc.ss.toNat, .ac⟩

/-- `LDA[c] <- 0` before a sample at x = 0 (R412). -/
def rowStart (a : Address) : Act Unit :=
  update fun s => if a.x = 0 then { s with pr := s.pr.setLeft a (s.fr.unitRow a) 0 } else s

/-- HUF_LOSSLESS (R400): one difference symbol. -/
def hufLosslessAct : Act Unit := do
  let a ← currentAddress
  rowStart a
  setOpen ⟨.lossless, a, 0, .dc⟩
  runSymbols symbolBound

/-- HUF_SEQ; the selector's d and x bits are FT's, which the rules read there (R158, R301). -/
def execHufSeq (_ _ : Bool) (s : State) : Host.Outcome State Fault Refusal := runAct hufSeqAct s

/-- HUF_DC_FIRST. -/
def execHufDcFirst (_ : Bool) (s : State) : Host.Outcome State Fault Refusal := runAct hufDcFirstAct s

/-- HUF_DC_REFINE. -/
def execHufDcRefine (_ : Bool) (s : State) : Host.Outcome State Fault Refusal := runAct hufDcRefineAct s

/-- HUF_AC_FIRST. -/
def execHufAcFirst (_ : Bool) (s : State) : Host.Outcome State Fault Refusal := runAct hufAcFirstAct s

/-- HUF_AC_REFINE. -/
def execHufAcRefine (_ : Bool) (s : State) : Host.Outcome State Fault Refusal := runAct hufAcRefineAct s

/-- HUF_LOSSLESS. -/
def execHufLossless (_ : Bool) (s : State) : Host.Outcome State Fault Refusal := runAct hufLosslessAct s

end Sys2Proof.Machine
end

