-- ==== Sys2Proof/Machine/Qm.lean ====
section
/-! DEFINITION. The QM coder: statistics bins (R341, R349), ByteIn (R343), ArithDecode (R344), and the decision trees of DC
differences (R352), AC values (R354) and lossless differences (R421, R422). -/

namespace Sys2Proof.Machine

open Sys2Proof.Config

/-- A statistics bin, or the fixed-probability bin (R344, R347, R349). -/
inductive Bin where
  | dc (t i : Nat)
  | ac (t i : Nat)
  | ll (t i : Nat)
  | fixed
  deriving DecidableEq, Repr

/-- The byte of a bin; FIXED is permanently 0 (R347). -/
def Stats.binByte (st : Stats) : Bin → Byte
  | .dc t i => vget (vget st.dc t (Vector.replicate 64 0)) i 0
  | .ac t i => vget (vget st.ac t (Vector.replicate 256 0)) i 0
  | .ll t i => cellsRead (vget st.ll t []) i
  | .fixed => 0

/-- A bin's byte replaced; FIXED is never updated (R347). -/
def Stats.setBin (st : Stats) : Bin → Byte → Stats
  | .dc t i, v => { st with dc := vset st.dc t (vset (vget st.dc t (Vector.replicate 64 0)) i v) }
  | .ac t i, v => { st with ac := vset st.ac t (vset (vget st.ac t (Vector.replicate 256 0)) i v) }
  | .ll t i, v => { st with ll := vset st.ll t (cellsWrite (vget st.ll t []) i v) }
  | .fixed, _ => st

/-- MPS(st) = st[7] (R341). -/
def binMps (st : Byte) : Bool := st.getLsbD 7

/-- IDX(st) = st[6:0] (R341). -/
def binIdx (st : Byte) : Nat := st.toNat % 128

/-- A bin byte is valid when its index is in the table (R341). -/
def binValid (st : Byte) : Bool := decide (binIdx st ≤ 112)

/-- The row of QE_TABLE for a bin byte (R340, R344). -/
def qeOf (st : Byte) : QeRow := lget qeTable (binIdx st) ⟨0, 0, 0, false⟩

/-- ByteIn() (R343): past the interval ZFILL is set and zeros are supplied. -/
def byteIn : Act Byte := do
  let s ← get
  if s.rd.bp ≥ s.rd.segEnd then
    update fun s => { s with qm := { s.qm with zfill := true } }
    pure 0
  else
    let b ← memRead1 s.rd.bp
    update fun s => { s with rd := { s.rd with bp := s.rd.bp + (if b = 0xFF then 2 else 1) } }
    pure b

/-- One round of the renormalisation loop (R344). -/
def renormRound : Act Unit := do
  let s ← get
  let ct := s.qm.ct - 1
  if ct < 0 then
    let b ← byteIn
    let ct' := ct + 8
    update fun s => { s with qm := { s.qm with
      c := s.qm.c <<< 8 ||| b.setWidth 32
      ct := if ct' < 0 then ct' + 1 else ct'
      a := (if ct' < 0 ∧ ct' + 1 = 0 then (0x8000 : BitVec 17) else s.qm.a) <<< 1 } }
  else update fun s => { s with qm := { s.qm with ct := ct, a := s.qm.a <<< 1 } }

/-- The renormalisation loop `while A < 0x8000` (R344), at most `fuel` rounds. -/
def renorm : Nat → Act Unit
  | 0 => stop .loopBound
  | fuel + 1 => do
    let s ← get
    if s.qm.a.toNat < 0x8000 then
      renormRound
      renorm fuel
    else pure ()

/-- Two start bytes and at most 16 doublings (R342, R346). -/
def renormBound : Nat := 24

/-- The decision of R344 after renormalisation: from the bin byte, A, C and CT the bit, the new A and C, the new bin byte. -/
def decision (sv : Byte) (a : Nat) (c : Nat) (ct : Nat) : Bool × Nat × Nat × Byte :=
  let q := qeOf sv
  let mps := binMps sv
  let keep : Byte := sv &&& 0x80
  let onMps : Byte := keep ||| BitVec.ofNat 8 q.nmps
  let onLps : Byte := (keep ^^^ (if q.switch then 0x80 else 0)) ||| BitVec.ofNat 8 q.nlps
  let a' := a - q.qe
  let t := a' * 2 ^ ct
  if c ≥ t then
    if a' < q.qe then (mps, q.qe, c - t, onMps) else (!mps, q.qe, c - t, onLps)
  else if a' < 0x8000 then
    if a' < q.qe then (!mps, a', c, onLps) else (mps, a', c, onMps)
  else (mps, a', c, sv)

/-- ArithDecode(bin) (R344). -/
def arithDecode (bin : Bin) : Act Bool := do
  renorm renormBound
  let s ← get
  let sv := s.st.binByte bin
  let (bit, a, c, new) := decision sv s.qm.a.toNat s.qm.c.toNat s.qm.ct.toNat
  update fun s => { s with
    qm := { s.qm with a := BitVec.ofNat 17 a, c := BitVec.ofNat 32 c }
    st := s.st.setBin bin new }
  pure bit

/-! ### Magnitude trees (R352, R354, R421) -/

/-- The magnitude category loop (R352, R354): doubles `m` while the bins from `i` on decide 1; `m = 0x8000` is a FormatError. The
last bin index and `m`. -/
def magnitude (bin : Nat → Bin) : Nat → Nat → Nat → Act (Nat × Nat)
  | 0, _, _ => stop .loopBound
  | fuel + 1, i, m => do
    let d ← arithDecode (bin i)
    if d then
      if 2 * m = 0x8000 then raise .formatError
      else magnitude bin fuel (i + 1) (2 * m)
    else pure (i, m)

/-- The magnitude bits below the leading one (R352, R354): from bit `b` down. -/
def magnitudeBits (bin : Bin) : Nat → Nat → Nat → Act Nat
  | 0, _, v => pure v
  | fuel + 1, b, v => do
    if b = 0 then pure v
    else
      let d ← arithDecode bin
      magnitudeBits bin fuel (b / 2) (if d then v ||| b else v)

/-- Rounds of the magnitude loops: `m` reaches 2^15 after 15 doublings. -/
def magnitudeBound : Nat := 17

/-- A signed value from its magnitude and sign. -/
def signed (negative : Bool) (v : Nat) : Int := if negative then -(v : Int) else v

/-- The sign and magnitude category of a non-zero difference with context `s0` and X1 bin `x1` (R352, R421): sign, m, last bin. -/
def diffCategory (bin : Nat → Bin) (s0 x1 : Nat) : Act (Bool × Nat × Nat) := do
  let sign ← arithDecode (bin (s0 + 1))
  let st := s0 + 2 + (if sign then 1 else 0)
  let m ← arithDecode (bin st)
  if m then
    let (i, m') ← magnitude bin magnitudeBound x1 1
    pure (sign, m', i)
  else pure (sign, 0, st)

/-- The difference of a category `m` whose last bin was `i`: the magnitude bits in bin `i + 14`, plus 1, signed (R352). -/
def diffValue (bin : Nat → Bin) (sign : Bool) (m i : Nat) : Act Int := do
  let v ← magnitudeBits (bin (i + 14)) magnitudeBound (m / 2) m
  pure (signed sign (v + 1))

/-- The conditioning category of a DC difference of category `m` (R352). -/
def dcContext (l u m : Nat) (sign : Bool) : Nat :=
  if m < 2 ^ l / 2 then 0
  else if m > 2 ^ u / 2 then 12 + (if sign then 4 else 0)
  else 4 + (if sign then 4 else 0)

/-- L = DAC_DC[TD[c]][3:0] (R43, R349). -/
def State.condL (s : State) (c : Nat) : Nat := loNibble (vget s.tb.dacDc (s.fr.compAt c).td.toNat 0)

/-- U = DAC_DC[TD[c]][7:4] (R43, R349). -/
def State.condU (s : State) (c : Nat) : Nat := hiNibble (vget s.tb.dacDc (s.fr.compAt c).td.toNat 0)

/-- KX = DAC_AC[TA[c]] (R43, R349). -/
def State.condKx (s : State) (c : Nat) : Nat := (vget s.tb.dacAc (s.fr.compAt c).ta.toNat 0).toNat

/-- DCS(i) for component `c` (R349). -/
def State.dcs (s : State) (c : Nat) : Nat → Bin := Bin.dc (s.fr.compAt c).td.toNat

/-- ACS(i) for component `c` (R349). -/
def State.acs (s : State) (c : Nat) : Nat → Bin := Bin.ac (s.fr.compAt c).ta.toNat

/-- `DC_CTX[c] <- x`. -/
def setDcCtx (c x : Nat) : Act Unit := update fun s => { s with pr := { s.pr with dcCtx := vset s.pr.dcCtx c x } }

/-- DecodeDCDiff(c) (R352). -/
def decodeDcDiff (c : Nat) : Act Int := do
  let s ← get
  let bin := s.dcs c
  let s0 := vget s.pr.dcCtx c 0
  let nz ← arithDecode (bin s0)
  if nz then
    let (sign, m, i) ← diffCategory bin s0 20
    setDcCtx c (dcContext (s.condL c) (s.condU c) m sign)
    diffValue bin sign m i
  else
    setDcCtx c 0
    pure 0

/-- DecodeACValue(c, k) (R354). -/
def decodeAcValue (c k : Nat) : Act Int := do
  let s ← get
  let bin := s.acs c
  let sign ← arithDecode .fixed
  let st := 3 * (k - 1) + 2
  let m ← arithDecode (bin st)
  let (i, m) ←
    if m then do
      let again ← arithDecode (bin st)
      if again then magnitude bin magnitudeBound (if k ≤ s.condKx c then 189 else 217) 2
      else pure (st, 1)
    else pure (st, 0)
  let v ← magnitudeBits (bin (i + 14)) magnitudeBound (m / 2) m
  pure (signed sign (v + 1))

/-! ### Lossless contexts (R420-R422) -/

/-- mag(D) (R422). -/
def llMag (d : Int) : Nat := if d.natAbs ≤ 1 then 0 else 2 ^ Nat.log2 (d.natAbs - 1)

/-- cat(D) (R422). -/
def llCat (l u : Nat) (d : Int) : Nat :=
  if d = 0 ∨ llMag d < 2 ^ l / 2 then 0
  else if llMag d ≤ 2 ^ u / 2 then (if d > 0 then 1 else 2)
  else (if d > 0 then 3 else 4)

/-- The reference LL_ARITH_CTX (R422): s0 and xbase. -/
def llArithCtxRef (da db : Int) (l u : Nat) : Nat × Nat :=
  (4 * (5 * llCat l u da + llCat l u db), if llCat l u db ≥ 3 then 129 else 100)

/-- The parameter LL_ARITH_CTX (R11, R420, D25). -/
def llArithCtx (p : Params) (da db : Int) (l u : Nat) : Nat × Nat :=
  match p.llArithCtx with
  | .reference => llArithCtxRef da db l u
  | .other n => llArithCtxOther n da db l u

/-- DecodeDiffLL(s0, xbase) (R421): the tree of R352 on the lossless bins of table `t`. -/
def decodeDiffLl (t s0 xbase : Nat) : Act Int := do
  let nz ← arithDecode (.ll t s0)
  if nz then
    let (sign, m, i) ← diffCategory (Bin.ll t) s0 xbase
    diffValue (Bin.ll t) sign m i
  else pure 0

end Sys2Proof.Machine
end

