-- ==== Sys2Proof/Machine/AriRoutines.lean ====
section
/-! DEFINITION. The arithmetic routines, one block or sample each (R350, R356, R357, R358, R360, R420). -/

namespace Sys2Proof.Machine

/-- The next non-zero position from `k` on (R350, R358): a zero run past `last` is a FormatError. -/
def zeroRun (bin : Nat → Bin) (last : Nat) : Nat → Nat → Act Nat
  | 0, _ => stop .loopBound
  | fuel + 1, k => do
    let nz ← arithDecode (bin (3 * (k - 1) + 1))
    if nz then pure k
    else if k + 1 > last then raise .formatError
    else zeroRun bin last fuel (k + 1)

/-- The AC values of a band from `k` to `last` (R350, R358): an end decision, a zero run, a value; each value goes to `store k v`. -/
def ariBand (a : Address) (bin : Nat → Bin) (last : Nat) (store : Nat → Int → Act Unit) : Nat → Nat → Act Unit
  | 0, _ => stop .loopBound
  | fuel + 1, k => do
    if k ≤ last then
      let eob ← arithDecode (bin (3 * (k - 1)))
      if eob then pure ()
      else
        let k' ← zeroRun bin last 64 k
        let v ← decodeAcValue a.c k'
        store k' v
        ariBand a bin last store fuel (k' + 1)
    else pure ()

/-- The values of a band: at most 64. -/
def ariBound : Nat := 65

/-- ARI_SEQ (R350). -/
def ariSeqAct : Act Unit := do
  let a ← currentAddress
  let diff ← decodeDcDiff a.c
  let val ← predictDc a.c diff
  setCoeff a 0 val
  let s ← get
  ariBand a (s.acs a.c) 63 (setCoeff a) ariBound 1

/-- ARI_DC_FIRST (R356): the DC part of R350, stored shifted by AL. -/
def ariDcFirstAct : Act Unit := do
  let a ← currentAddress
  let diff ← decodeDcDiff a.c
  let val ← predictDc a.c diff
  storeShifted a 0 val

/-- ARI_DC_REFINE (R357): one fixed-probability decision; 1 sets bit AL of `blk[0]`. -/
def ariDcRefineAct : Act Unit := do
  let a ← currentAddress
  let bit ← arithDecode .fixed
  let s ← get
  let v ← getCoeff a 0
  if bit then setCoeff a 0 (setBitInt v s.sc.al.toNat) else pure ()

/-- ARI_AC_FIRST (R358): each value is stored shifted by AL; there is no end-of-band run. -/
def ariAcFirstAct : Act Unit := do
  let a ← currentAddress
  let s ← get
  ariBand a (s.acs a.c) s.sc.se.toNat (storeShifted a) ariBound s.sc.ss.toNat

/-- EOBx (R360): the last non-zero position of the previous stages, from `k` down to 1, or 0. -/
def lastNonZero (b : Block) : Nat → Nat
  | 0 => 0
  | k + 1 => if vget b (k + 1) 0 ≠ 0 then k + 1 else lastNonZero b k

/-- The refinement decisions from position `k` to the next coefficient that is corrected or becomes non-zero (R360): that
position. -/
def refineRun (a : Address) (bin : Nat → Bin) (last : Nat) (p1 : Int) : Nat → Nat → Act Nat
  | 0, _ => stop .loopBound
  | fuel + 1, k => do
    let v ← getCoeff a k
    if v ≠ 0 then
      let d ← arithDecode (bin (3 * (k - 1) + 2))
      if d then setCoeff a k (if v < 0 then v - p1 else v + p1) else pure ()
      pure k
    else
      let d ← arithDecode (bin (3 * (k - 1) + 1))
      if d then
        let neg ← arithDecode .fixed
        setCoeff a k (if neg then -p1 else p1)
        pure k
      else if k + 1 > last then raise .formatError
      else refineRun a bin last p1 fuel (k + 1)

/-- The refinement loop (R360): an end-of-band decision is read only beyond `kex`. -/
def refineBand (a : Address) (bin : Nat → Bin) (last kex : Nat) (p1 : Int) : Nat → Nat → Act Unit
  | 0, _ => stop .loopBound
  | fuel + 1, k => do
    if k ≤ last then
      let eob ← if k > kex then arithDecode (bin (3 * (k - 1))) else pure false
      if eob then pure ()
      else
        let k' ← refineRun a bin last p1 64 k
        refineBand a bin last kex p1 fuel (k' + 1)
    else pure ()

/-- ARI_AC_REFINE (R360). -/
def ariAcRefineAct : Act Unit := do
  let a ← currentAddress
  let s ← get
  let b ← getBlock a
  refineBand a (s.acs a.c) s.sc.se.toNat (lastNonZero b s.sc.se.toNat) (2 ^ s.sc.al.toNat) ariBound s.sc.ss.toNat

/-- ARI_LOSSLESS (R420): the context from the differences to the left and above, the difference, the sample. -/
def ariLosslessAct : Act Unit := do
  let a ← currentAddress
  rowStart a
  let s ← get
  let ctx := llArithCtx s.params (s.pr.left a (s.fr.unitRow a)) (s.pr.above a) (s.condL a.c) (s.condU a.c)
  let diff ← decodeDiffLl (s.fr.compAt a.c).td.toNat ctx.1 ctx.2
  storeSample a diff

/-- ARI_SEQ; the selector's d bit is FT[2], which the rules read there (R158, R350). -/
def execAriSeq (_ : Bool) (s : State) : Host.Outcome State Fault Refusal := runAct ariSeqAct s

/-- ARI_DC_FIRST. -/
def execAriDcFirst (_ : Bool) (s : State) : Host.Outcome State Fault Refusal := runAct ariDcFirstAct s

/-- ARI_DC_REFINE. -/
def execAriDcRefine (_ : Bool) (s : State) : Host.Outcome State Fault Refusal := runAct ariDcRefineAct s

/-- ARI_AC_FIRST. -/
def execAriAcFirst (_ : Bool) (s : State) : Host.Outcome State Fault Refusal := runAct ariAcFirstAct s

/-- ARI_AC_REFINE. -/
def execAriAcRefine (_ : Bool) (s : State) : Host.Outcome State Fault Refusal := runAct ariAcRefineAct s

/-- ARI_LOSSLESS. -/
def execAriLossless (_ : Bool) (s : State) : Host.Outcome State Fault Refusal := runAct ariLosslessAct s

end Sys2Proof.Machine
end

