-- ==== Sys2Proof/Machine/HostPort.lean ====
section
/-! DEFINITION. The host's side of LPJ: START (R582, R583), the register block (R32-R36, R108, R109), the host's accesses to memory
(R111, R550, R591), the hardware reset (R580, R581). -/

namespace Sys2Proof.Machine

/-! ### START -/

/-- The registers as an accepted START leaves them (R583): OP and IRQ_EN of the same write; STATUS and ERRCODE; OUT_USED for an
encode, INFO and the Exif location for a decode. -/
def HostRegs.start (r : HostRegs) (op irqEn : Bool) : HostRegs :=
  { r with
    ctrl := ctrlWord op irqEn
    status := statusWord true false false
    errcode := 0
    outUsed := if op then 0 else r.outUsed
    info := if op then r.info else 0
    exifOff := if op then r.exifOff else 0xFFFFFFFF
    exifLen := if op then r.exifLen else 0 }

/-- START accepted (R583): the engine's state is discarded and the arena emptied; the operation begins. Where the arena shares addresses
with another buffer the engine's reads of it are draws from here on (R591, log 15). -/
def State.accept (s : State) (op irqEn : Bool) : State :=
  { s.discard with
    regs := s.regs.start op irqEn
    breach := { Breach.init with arena := s.regs.arenaShared }
    sq := { Seq.init with phase := if op then .encRead else .soi } }

/-- START (R582): accepted when idle, ignored entirely while BUSY (R34). -/
def State.start (s : State) (op irqEn : Bool) : State := if s.busy then s else s.accept op irqEn

/-- DECODE (R582, R583). -/
def execDecode (irqEn : Bool) (s : State) : Host.Outcome State Fault Refusal := .next (s.start false irqEn)

/-- ENCODE (R582, R583). -/
def execEncode (irqEn : Bool) (s : State) : Host.Outcome State Fault Refusal := .next (s.start true irqEn)

/-! ### The register block -/

/-- A register by its word offset (R32). -/
def HostRegs.word (r : HostRegs) : Nat → Word
  | 0 => r.ctrl
  | 1 => r.status
  | 2 => r.errcode
  | 3 => r.inBase
  | 4 => r.inLen
  | 5 => r.outBase
  | 6 => r.outLen
  | 7 => r.scrBase
  | 8 => r.scrLen
  | 9 => r.sizeLimit
  | 10 => r.imgWidth
  | 11 => r.imgHeight
  | 12 => r.outUsed
  | 13 => r.exifOff
  | 14 => r.exifLen
  | 15 => r.info
  | _ => 0

/-- [15:0] of a written value: the upper half of IMG_WIDTH and IMG_HEIGHT reads 0 (R32). -/
def low16 (v : Word) : Word := v &&& 0xFFFF

/-- A register write that starts nothing (R32, R34, R35): configuration registers keep their value while BUSY, STATUS.DONE and
STATUS.ERR are cleared by writing 1, the read-only registers ignore it. CTRL takes OP and IRQ_EN. -/
def HostRegs.writeWord (r : HostRegs) (busy : Bool) (i : Nat) (v : Word) : HostRegs :=
  match i with
  | 1 => { r with status := r.status &&& ~~~(v &&& 0x6) }
  | 0 => if busy then r else { r with ctrl := ctrlWord (v.getLsbD 1) (v.getLsbD 2) }
  | 3 => if busy then r else { r with inBase := v }
  | 4 => if busy then r else { r with inLen := v }
  | 5 => if busy then r else { r with outBase := v }
  | 6 => if busy then r else { r with outLen := v }
  | 7 => if busy then r else { r with scrBase := v }
  | 8 => if busy then r else { r with scrLen := v }
  | 9 => if busy then r else { r with sizeLimit := v }
  | 10 => if busy then r else { r with imgWidth := low16 v }
  | 11 => if busy then r else { r with imgHeight := low16 v }
  | _ => r

/-- The byte offset of an address in the register block, if it lies there (R100). The block does not wrap at 2^32, which is the model's
choice: with LPJ_BASE above 0xFFFFFFC0 its upper registers have no address (log 14). -/
def State.regOffset (s : State) (addr : Word) : Option Nat :=
  if s.params.lpjBase.toNat ≤ addr.toNat ∧ addr.toNat < s.params.lpjBase.toNat + 64 then
    some (addr.toNat - s.params.lpjBase.toNat)
  else none

/-- An aligned 32-bit access (R108). Alignment is that of the offset from LPJ_BASE, not of the bus address (log 14). -/
def wordAccess (off width : Nat) : Bool := off % 4 == 0 && width == 4

/-- The host access is the write of a value with START = 1 to CTRL: an instruction (R582). -/
def State.startWord (s : State) : HostAct → Option Instr
  | .write addr width val =>
    if s.regOffset addr = some 0 ∧ width = 4 then decodeInstr .ctrl (bytesLE 4 val.toNat) else none
  | _ => none

/-! ### Host memory -/

/-- The host's discipline after it wrote a byte at `a` while BUSY (R111): a byte of the arena makes the engine's reads of it draws, a
byte of the output is unspecified for the rest of the operation. -/
def State.breached (s : State) (a : Nat) : Breach where
  arena := s.breach.arena || s.inArena a
  out := if s.inOutput a then addRange s.breach.out a (a + 1) else s.breach.out

/-- The host writes a byte. While BUSY a byte of one of the three buffers becomes unspecified (R111, R550, R591; log 13, log 15). From the
fall of BUSY on it is stored, whether the host has observed DONE or not, which is the model's choice (log 15). -/
def State.hostStore (s : State) (a : Nat) (b : Byte) : State :=
  if s.busy && (s.inInput a || s.inOutput a || s.inArena a) then { s with mem := s.mem.forget a 1, breach := s.breached a }
  else { s with mem := s.mem.write a b }

/-- The host writes bytes at consecutive addresses. -/
def State.hostStoreList (s : State) : Nat → List Byte → State
  | _, [] => s
  | a, b :: bs => (s.hostStore a b).hostStoreList (a + 1) bs

/-- The host reads a byte: a draw where its content is unspecified, and in the output buffer or the arena while BUSY (R111, R591). From the
fall of BUSY on it reads what is stored, whether it has observed DONE or not, which is the model's choice (log 15). -/
def State.hostLoad (s : State) (a : Nat) : Byte × State :=
  if s.busy && (s.inArena a || s.inOutput a) then (Config.freeByte s.draws, { s with draws := s.draws + 1 })
  else s.load a

/-- The host reads `n` bytes, low byte first. -/
def State.hostLoadLE (s : State) : Nat → Nat → Nat × State
  | 0, _ => (0, s)
  | n + 1, a =>
    let r := s.hostLoad a
    let t := r.2.hostLoadLE n (a + 1)
    (r.1.toNat + 256 * t.1, t.2)

/-! ### Accesses -/

/-- A host write that starts nothing: a register, or up to four bytes of memory (log 14). -/
def State.hostWrite (s : State) (addr : Word) (width : Nat) (val : Word) : State :=
  match s.regOffset addr with
  | some off => if wordAccess off width then { s with regs := s.regs.writeWord s.busy (off / 4) val } else s
  | none => s.hostStoreList addr.toNat (bytesLE (min width 4) val.toNat)

/-- A host read: RDATA is a register, 0 for an access that is no aligned word (R108), or up to four bytes of memory (log 14). -/
def State.hostRead (s : State) (addr : Word) (width : Nat) : State :=
  match s.regOffset addr with
  | some off => { s with rdata := if wordAccess off width then s.regs.word (off / 4) else 0 }
  | none =>
    let r := s.hostLoadLE (min width 4) addr.toNat
    { r.2 with rdata := BitVec.ofNat 32 r.1 }

/-- The hardware reset (R580, R581): the registers at their reset values, the engine idle; a reset while BUSY leaves the output
buffer and the arena unspecified (log 13). -/
def State.hardReset (s : State) : State :=
  let m := if s.busy then
      (s.mem.forget (s.outAddr 0) s.outLen).forget s.regs.scrBase.toNat s.regs.scrLen.toNat
    else s.mem
  { s.discard with regs := HostRegs.reset, mem := m }

/-- A host action that is no instruction. -/
def State.hostAct (s : State) : HostAct → State
  | .engine => s
  | .write addr width val => s.hostWrite addr width val
  | .read addr width => s.hostRead addr width
  | .reset => s.hardReset

end Sys2Proof.Machine
end

