-- ==== Sys2Proof/Machine/Transform.lean ====
section
/-! DEFINITION. The cosine transforms: the reference IDCT (R442, R443) and forward DCT with quantization (R496), and rounding. A sum
of products of two cosines of multiples of pi/16 is an integer combination of `2 cos (j pi / 16)`, so the exact sum is rounded
from its value to 400 binary places (log 27). -/

namespace Sys2Proof.Machine

open Sys2Proof.Config

/-- `num / den` to the nearest integer, halves away from zero (R443). -/
def roundDiv (num : Int) (den : Nat) : Int :=
  if 0 ≤ num then (2 * num + den) / (2 * den) else -((2 * -num + den) / (2 * den))

/-- A rational to the nearest integer, halves away from zero (R443, R453). -/
def roundRat (q : Rat) : Int := roundDiv q.num q.den

/-- `2 cos (m pi / 16)` in units of `2^-400`. -/
def cosTwice (m : Nat) : Int :=
  let r := m % 32
  let r := if r > 16 then 32 - r else r
  if r = 0 then 2 * 2 ^ cosPlaces
  else if r < 8 then ((lget cosScaled (r - 1) 0 : Nat) : Int)
  else if r = 8 then 0
  else if r = 16 then -(2 * 2 ^ cosPlaces)
  else -((lget cosScaled (15 - r) 0 : Nat) : Int)

/-- The angle of basis index `u` at sample `x`, in units of pi/16: `(2x+1) u`, and 4 for u = 0, as C(0) = cos (4 pi / 16). -/
def basisAngle (x u : Nat) : Nat := if u = 0 then 4 else (2 * x + 1) * u

/-- `4 C(u) C(v) cos((2x+1) u pi / 16) cos((2y+1) v pi / 16)` in units of `2^-400`. -/
def basisProduct (x y u v : Nat) : Int :=
  let a := basisAngle x u
  let b := basisAngle y v
  cosTwice (a + b) + cosTwice (if a ≥ b then a - b else b - a)

/-- The natural position 8v+u of zigzag index `k` (R17). -/
def naturalOf (k : Nat) : Nat := lget zigzag k 0

/-- The non-zero coefficients of a zigzag block as (u, v, value) (R442). -/
def spectrum (f : Block) : List (Nat × Nat × Int) :=
  (List.range 64).filterMap fun k =>
    let n := naturalOf k
    if vget f k 0 = 0 then none else some (n % 8, n / 8, vget f k 0)

/-- `16 s(x, y)` of the IDCT sum, in units of `2^-400` (R443). -/
def idctSum (sp : List (Nat × Nat × Int)) (x y : Nat) : Int :=
  (sp.map fun t => t.2.2 * basisProduct x y t.1 t.2.1).sum

/-- `v` limited to `lo .. hi`. -/
def clampInt (v lo hi : Int) : Int := if v < lo then lo else if v > hi then hi else v

/-- The output step of R443: level shift and clamp, or neither in a differential frame. -/
def levelShift (p : Nat) (differential : Bool) (r : Int) : Int :=
  if differential then r else clampInt (r + 2 ^ (p - 1)) 0 (2 ^ p - 1)

/-- The reference IDCT (R443): 64 samples, row by row. -/
def idctRef (p : Nat) (differential : Bool) (f : Block) : Block :=
  let sp := spectrum f
  Vector.ofFn fun i => levelShift p differential (roundDiv (idctSum sp (i.val % 8) (i.val / 8)) (16 * 2 ^ cosPlaces))

/-- The parameter IDCT (R11, D19). -/
def idct (params : Params) (p : Nat) (differential : Bool) (f : Block) : Block :=
  match params.idct with
  | .reference => idctRef p differential f
  | .other n => idctOther n p differential f

/-- `16 F(u, v)` of the forward DCT of 64 samples (row by row), in units of `2^-400` (R496). -/
def fdctSum (samples : List Rat) (u v : Nat) : Rat :=
  ((List.range 64).map fun i => (lget samples i 0 - 128) * (basisProduct (i % 8) (i / 8) u v : Rat)).sum

/-- The reference forward DCT and quantization (R496), the table and the result in zigzag order. -/
def fdctRef (samples : List Rat) (q : Vector Nat 64) : Block :=
  Vector.ofFn fun k =>
    let n := naturalOf k.val
    roundRat (fdctSum samples (n % 8) (n / 8) / (16 * 2 ^ cosPlaces * (vget q k.val 1 : Nat)))

/-- The coefficients of a quantized block have the range of a baseline encoder (R496: categories at most 11 and 10). -/
def baselineRange (b : Block) : Bool :=
  decide ((vget b 0 0).natAbs ≤ 1024) && (List.range 64).all fun k => k == 0 || decide ((vget b k 0).natAbs ≤ 1023)

/-- The parameter FDCT_Q (R11, D30); another value must keep the range of R496 (log 29). -/
def fdctQ (params : Params) (samples : List Rat) (q : Vector Nat 64) : Block :=
  match params.fdctQ with
  | .reference => fdctRef samples q
  | .other n => if baselineRange (fdctOther n samples q) then fdctOther n samples q else fdctRef samples q

end Sys2Proof.Machine
end

