-- ==== Sys2Proof/Machine/Recon.lean ====
section
/-! DEFINITION. Reconstruction: dequantization and inverse DCT (R440-R444), hierarchical accumulation (R470-R476), upsampling
(R450), colour transfer (R451-R453), scaling (R454), the pixel sink (R105, R456), and the end of a frame. -/

namespace Sys2Proof.Machine

open Sys2Proof.Config

/-! ### Dequantization and placement -/

/-- The products `blk[k] * QL[c][k]` of a block, each checked for Overflow (R441). -/
def dequantList : List (Int × BitVec 16) → Act (List Int)
  | [] => pure []
  | (v, q) :: t => do
    let p ← checked32 (v * q.toNat)
    let ps ← dequantList t
    pure (p :: ps)

/-- Dequant(c, b) (R441). -/
def dequant (b : Block) (q : QTable) : Act Block := do
  let ps ← dequantList (b.toList.zip q.toList)
  pure (Vector.ofFn fun k => lget ps k.val 0)

/-- The blocks of a plane dequantized and transformed (R440). -/
def transformBlocks (p : Nat) (differential : Bool) (q : QTable) : List Block → Act (List Block)
  | [] => pure []
  | b :: t => do
    let f ← dequant b q
    let s ← get
    let rest ← transformBlocks p differential q t
    pure (idct s.params p differential f :: rest)

/-- A sample plane from a function of (x, y). -/
def Samples.build (w h : Nat) (f : Nat → Nat → Int) : Samples where
  w := w
  h := h
  data := (List.range h).flatMap fun y => (List.range w).map fun x => f x y

/-- The sample at `(x, y)`, 0 outside the plane. -/
def Samples.at (s : Samples) (x y : Nat) : Int := if x < s.w then lget s.data (y * s.w + x) 0 else 0

/-- The plane cut to `w x h`. -/
def Samples.crop (s : Samples) (w h : Nat) : Samples := Samples.build w h s.at

/-- Every sample changed. -/
def Samples.mapAll (s : Samples) (f : Int → Int) : Samples := { s with data := s.data.map f }

/-- RS[c] from transformed blocks: block (bx, by) at rows 8by.., columns 8bx.. (R444). -/
def placeBlocks (bw bh : Nat) (blocks : List Block) : Samples :=
  Samples.build (8 * bw) (8 * bh) fun x y =>
    vget (lget blocks (y / 8 * bw + x / 8) (Vector.replicate 64 0)) (y % 8 * 8 + x % 8) 0

/-- The lossless samples of a plane after the point transform (R409, R440, R452). -/
def losslessPlane (sw sh : Nat) (cells : List (BitVec 16)) (pt : Nat) : Samples :=
  Samples.build sw sh fun x y => ((lget cells ((y + 1) * (sw + 1) + (x + 1)) 0).toNat : Int) * 2 ^ pt

/-- Width and height of the reconstructed samples of a plane (R444, R260). -/
def Plane.size : Plane → Nat × Nat
  | .dct bw bh _ => (8 * bw, 8 * bh)
  | .lossless sw sh _ => (sw, sh)

/-- RS[c] of a frame component (R440): its samples are allocated (R106, log 37), then computed. -/
def reconstructComp (c : Nat) : Act Unit := do
  let s ← get
  let plane ← orUndefined .plane (s.plane c)
  let _ ← alloc (.samples plane.size.1 plane.size.2)
  let rs ← match plane with
    | .dct bw bh blocks => do
      let q ← orUndefined .quantTable (vget s.tb.ql c none)
      let out ← transformBlocks s.fr.p.toNat s.fr.isDifferential q blocks
      pure (placeBlocks bw bh out)
    | .lossless sw sh cells => pure (losslessPlane sw sh cells (vget s.fr.pt c 0).toNat)
  update fun s => { s with arena := { s.arena with rs := vset s.arena.rs c (some rs) } }

/-! ### Hierarchical accumulation (R470-R474) -/

/-- Entry `i` of the reference 2x expansion of a row (R473). -/
def expandRef (row : List Int) (i : Nat) : Int :=
  let a := lget row (i / 2) 0
  if i % 2 = 0 then a else (a + lget row (min (i / 2 + 1) (row.length - 1)) 0) / 2

/-- The parameter EXPAND along one axis (R11, D24): the row at its new length. -/
def expandRow (p : Params) (row : List Int) (len : Nat) : List Int :=
  (List.range len).map fun i =>
    match p.expand with
    | .reference => expandRef row i
    | .other n => expandOther n row i

/-- The rows of a plane. -/
def Samples.row (s : Samples) (y : Nat) : List Int := (List.range s.w).map fun x => s.at x y

/-- The columns of a plane. -/
def Samples.col (s : Samples) (x : Nat) : List Int := (List.range s.h).map fun y => s.at x y

/-- Horizontal expansion to width `w` (R473). -/
def Samples.expandX (p : Params) (s : Samples) (w : Nat) : Samples where
  w := w
  h := s.h
  data := (List.range s.h).flatMap fun y => expandRow p (s.row y) w

/-- Vertical expansion to height `h` (R473). -/
def Samples.expandY (p : Params) (s : Samples) (h : Nat) : Samples :=
  let cols := (List.range s.w).map fun x => expandRow p (s.col x) h
  Samples.build s.w h fun x y => lget (lget cols x []) y 0

/-- An axis grows by 2 with cropping, or keeps its size (R473). -/
def axisOk (old new : Nat) : Bool := decide (new = old) || (decide (old < new) && (decide (new = 2 * old) || decide (new + 1 = 2 * old)))

/-- The accumulator plane of a component ID (R470). -/
def findAcc (acc : List AccPlane) (id : Byte) : Option Samples := (acc.find? fun a => a.id == id).map (·.plane)

/-- ACC with the plane of an ID replaced. -/
def setAcc (acc : List AccPlane) (id : Byte) (p : Samples) : List AccPlane :=
  acc.map fun a => if a.id = id then ⟨id, p⟩ else a

/-- A plane of ACC that grows is allocated at its new size (R106, R473; log 37). -/
def allocGrown (grows : Bool) (w h : Nat) : Act Unit :=
  if grows then do
    let _ ← alloc (.accumulator w h)
  else pure ()

/-- Folding a component's residual into ACC (R473, R474). -/
def accumulateDiff (id : Byte) (res : Samples) : Act Unit := do
  let s ← get
  let old ← orUndefined .samples (findAcc s.arena.acc id)
  require (axisOk old.w res.w && axisOk old.h res.h)
  let growX := decide (old.w < res.w)
  let growY := decide (old.h < res.h)
  match s.fr.exp with
    | some (eh, ev) => require (eh == growX && ev == growY)
    | none => pure ()
  allocGrown (growX || growY) res.w res.h
  let wide := if growX then old.expandX s.params res.w else old
  let full := if growY then wide.expandY s.params res.h else wide
  let sum := Samples.build res.w res.h fun x y => (full.at x y + res.at x y) % 65536
  update fun s => { s with arena := { s.arena with acc := setAcc s.arena.acc id sum } }

/-- Folding one frame component into ACC (R472-R474); the values stay in 0 .. 65535 (log 40). -/
def accumulateComp (c : Nat) : Act Unit := do
  let s ← get
  let rs ← orUndefined .samples (vget s.arena.rs c none)
  let w := s.fr.xc c
  let h := s.fr.yc c
  let id := (s.fr.compAt c).id
  if s.fr.isDifferential then accumulateDiff id (rs.crop w h)
  else
    let _ ← alloc (.accumulator w h)
    update fun s => { s with arena := { s.arena with acc := s.arena.acc ++ [⟨id, (rs.crop w h).mapAll (· % 65536)⟩] } }

/-! ### Upsampling, transfer, scaling (R450-R455) -/

/-- The reference upsampling of R450: centred bilinear with edge duplication, exact. -/
def upsampleRef (hmax h vmax v : Nat) (s : Samples) (x y : Nat) : Rat :=
  let px : Rat := ((x : Rat) + 1 / 2) * h / hmax - 1 / 2
  let py : Rat := ((y : Rat) + 1 / 2) * v / vmax - 1 / 2
  let i := px.floor
  let j := py.floor
  let fx := px - i
  let fy := py - j
  let a (i j : Int) : Rat :=
    s.at (clampInt i 0 ((s.w : Int) - 1)).toNat (clampInt j 0 ((s.h : Int) - 1)).toNat
  (1 - fx) * (1 - fy) * a i j + fx * (1 - fy) * a (i + 1) j +
    (1 - fx) * fy * a i (j + 1) + fx * fy * a (i + 1) (j + 1)

/-- Z[c](X', Y') (R450, D20): the sample itself at full sampling, else the parameter UPSAMPLE. -/
def upsample (p : Params) (hmax h vmax v : Nat) (s : Samples) (x y : Nat) : Rat :=
  if h = hmax ∧ v = vmax then s.at x y
  else match p.upsample with
    | .reference => upsampleRef hmax h vmax v s x y
    | .other n => upsampleOther n (hmax, h, vmax, v) s (s.w, s.h) (x, y)

/-- The reference decision table (R451): the first matching row wins; none where no row matches. -/
def transferSelectRef (ids : List Byte) (jfif adobe : Bool) (t : Option Byte) : Option TransferKind :=
  if ids.length = 1 then some .gray
  else if ids.length = 2 then some .grayAlpha
  else if ids.length = 3 then
    if adobe && t == some 0 then some .rgb
    else if ids = [0x52, 0x47, 0x42] then some .rgb
    else if ids = [0x42, 0x47, 0x52] then some .bgr
    else if (adobe && t == some 1) || jfif || ids = [1, 2, 3] || ids = [0, 1, 2] then some .ycbcr
    else none
  else if ids.length = 4 then
    if adobe && t == some 2 then some .ycck
    else if adobe && t == some 0 then some .cmyk
    else if ids = [0x52, 0x47, 0x42, 0x41] then some .rgba
    else if ids = [0x41, 0x42, 0x47, 0x52] then some .abgr
    else none
  else none

/-- The parameter TRANSFER's decision table (R451, D21). -/
def transferSelect (p : Params) (ids : List Byte) (jfif adobe : Bool) (t : Option Byte) : Option TransferKind :=
  match p.transfer with
  | .reference => transferSelectRef ids jfif adobe t
  | .other n => (transferSelectOther n ids jfif adobe t).map .other

/-- `z` limited to `lo .. hi`. -/
def clampRat (z lo hi : Rat) : Rat := if z < lo then lo else if z > hi then hi else z

/-- The exact YCBCR row of R453, with h = 2^(P-1): 2(1-Kr), 2Kb(1-Kb)/Kg, 2Kr(1-Kr)/Kg, 2(1-Kb), Kr = 0.299, Kb = 0.114,
Kg = 0.587. -/
def ycbcrRow (h y cb cr : Rat) : Rat × Rat × Rat :=
  let kr : Rat := 299 / 1000
  let kb : Rat := 114 / 1000
  let kg : Rat := 587 / 1000
  (y + 2 * (1 - kr) * (cr - h),
   y - 2 * kb * (1 - kb) / kg * (cb - h) - 2 * kr * (1 - kr) / kg * (cr - h),
   y + 2 * (1 - kb) * (cb - h))

/-- The transfer functions (R453), before rounding. -/
def transferApply (params : Params) (kind : TransferKind) (p : Nat) (z : List Rat) : Channels :=
  let m : Rat := 2 ^ p - 1
  let h : Rat := 2 ^ (p - 1)
  let z0 := lget z 0 0
  let z1 := lget z 1 0
  let z2 := lget z 2 0
  let z3 := lget z 3 0
  match kind with
  | .gray => ⟨z0, z0, z0, none⟩
  | .grayAlpha => ⟨z0, z0, z0, some z1⟩
  | .rgb => ⟨z0, z1, z2, none⟩
  | .bgr => ⟨z2, z1, z0, none⟩
  | .rgba => ⟨z0, z1, z2, some z3⟩
  | .abgr => ⟨z3, z2, z1, some z0⟩
  | .ycbcr =>
    let c := ycbcrRow h z0 z1 z2
    ⟨c.1, c.2.1, c.2.2, none⟩
  | .cmyk => ⟨z0 * z3 / m, z1 * z3 / m, z2 * z3 / m, none⟩
  | .ycck =>
    let c := ycbcrRow h z0 z1 z2
    ⟨(m - clampRat c.1 0 m) * z3 / m, (m - clampRat c.2.1 0 m) * z3 / m, (m - clampRat c.2.2 0 m) * z3 / m, none⟩
  | .other code =>
    match params.transfer with
    | .other n => transferApplyOther n code p z
    | .reference => ⟨z0, z0, z0, none⟩

/-- The reference SCALE16 (R454). -/
def scale16Ref (p v : Nat) : BitVec 16 := BitVec.ofNat 16 ((2 * v * 65535 + (2 ^ p - 1)) / (2 * (2 ^ p - 1)))

/-- The parameter SCALE16 (R11, D22). -/
def scale16 (params : Params) (p v : Nat) : BitVec 16 :=
  match params.scale16 with
  | .reference => scale16Ref p v
  | .other n => scale16Other n p v

/-- A channel value rounded, limited to 0 .. M and scaled (R453). -/
def channelOut (params : Params) (p : Nat) (z : Rat) : BitVec 16 :=
  scale16 params p (roundRat (clampRat z 0 (2 ^ p - 1))).toNat

/-- A 16-bit value, low byte first (R105). -/
def bytesLE16 (v : BitVec 16) : List Byte := [v.setWidth 8, (v >>> 8).setWidth 8]

/-- One pixel: R, G, B, A (R105); a missing alpha is ALPHA_ABSENT (R455). -/
def pixelBytes (params : Params) (p : Nat) (c : Channels) : List Byte :=
  bytesLE16 (channelOut params p c.r) ++ bytesLE16 (channelOut params p c.g) ++
  bytesLE16 (channelOut params p c.b) ++
  bytesLE16 (match c.a with
    | some a => channelOut params p a
    | none => params.alphaAbsent)

/-! ### Output -/

/-- One component as the output sees it: its samples cut to its extent and limited (R452, R476), H, V. -/
structure OutComp where
  plane : Samples
  h     : Nat
  v     : Nat
  deriving DecidableEq, Repr

/-- The largest of a list. -/
def maxOf (l : List Nat) : Nat := l.foldl max 0

/-- The pixels of the image, row by row (R450, R453, R456). -/
def imageBytes (params : Params) (kind : TransferKind) (p w h hmax vmax : Nat) (comps : List OutComp) : List Byte :=
  (List.range h).flatMap fun y => (List.range w).flatMap fun x =>
    pixelBytes params p (transferApply params kind p
      (comps.map fun c => upsample params hmax c.h vmax c.v c.plane x y))

/-- `min(v, 2^P - 1)` (R452, R476). -/
def limitTo (p : Nat) (v : Int) : Int := min v (2 ^ p - 1)

/-- The components of a non-hierarchical image (R452). -/
def frameOutComps (s : State) : List Nat → Option (List OutComp)
  | [] => some []
  | c :: cs =>
    match vget s.arena.rs c none with
    | none => none
    | some rs =>
      let cut := rs.crop (s.fr.xc c) (s.fr.yc c)
      (frameOutComps s cs).map
        (⟨if s.fr.isLossless then cut.mapAll (limitTo s.fr.p.toNat) else cut, s.fr.hOf c, s.fr.vOf c⟩ :: ·)

/-- HMAX and VMAX of the DHP's components (R476). -/
def Dhp.hmax (d : Dhp) : Nat := maxOf (d.comps.map (·.2.1))

/-- VMAX of the DHP's components. -/
def Dhp.vmax (d : Dhp) : Nat := maxOf (d.comps.map (·.2.2))

/-- The extent of a DHP component (R39, R476). -/
def Dhp.extent (d : Dhp) (h v : Nat) : Nat × Nat := (ceilDiv (d.x.toNat * h) d.hmax, ceilDiv (d.y.toNat * v) d.vmax)

/-- Every DHP component is in ACC at the image's full resolution (R476). -/
def dhpComplete (d : Dhp) (acc : List AccPlane) : Bool :=
  d.comps.all fun c =>
    match findAcc acc c.1 with
    | none => false
    | some p => decide ((p.w, p.h) = d.extent c.2.1 c.2.2)

/-- The components of a hierarchical image, in the order TRANSFER was selected for (R476, log 20). -/
def dhpOutComps (d : Dhp) (acc : List AccPlane) : List Byte → Option (List OutComp)
  | [] => some []
  | id :: ids =>
    match findAcc acc id, d.comps.find? (fun c => c.1 == id) with
    | some p, some c => (dhpOutComps d acc ids).map (⟨p.mapAll (limitTo d.p.toNat), c.2.1, c.2.2⟩ :: ·)
    | _, _ => none

/-- The pixels written to the sink (R105, R456): OutOfMemory where they do not fit, before the first write. So ends a hierarchical image
whose DHP gives 8*X*Y from 2^32 on, where every frame is smaller (log 6). -/
def writePixels (w h : Nat) (bytes : List Byte) : Act Unit := do
  let s ← get
  if s.outLen < 8 * w * h then raise .outOfMemory
  else
    update fun s =>
      let t := s.spill.store (s.outAddr 0) bytes
      { t with regs := { t.regs with imgWidth := BitVec.ofNat 32 w, imgHeight := BitVec.ofNat 32 h } }

/-- The end of a decode (R584 steps 3 to 5): final checks, pixels, success. -/
def outputAct : Act Unit := do
  let s ← get
  let kind ← orUndefined .transfer s.hi.transfer
  match s.hi.dhp with
    | some d => do
      if dhpComplete d s.arena.acc then pure () else raise .imageDataError
      let comps ← orUndefined .samples (dhpOutComps d s.arena.acc s.hi.ids)
      writePixels d.x.toNat d.y.toNat
        (imageBytes s.params kind d.p.toNat d.x.toNat d.y.toNat d.hmax d.vmax comps)
    | none => do
      let comps ← orUndefined .samples (frameOutComps s (List.range s.fr.nf.toNat))
      writePixels s.fr.x.toNat s.fr.y.toNat
        (imageBytes s.params kind s.fr.p.toNat s.fr.x.toNat s.fr.y.toNat s.fr.hmax.toNat s.fr.vmax.toNat comps)
  update succeed

/-- The frame components one after another. -/
def forComps (f : Nat → Act Unit) : List Nat → Act Unit
  | [] => pure ()
  | c :: cs => do
    f c
    forComps f cs

/-- The end of a frame (R257, R440, R584 steps d and e): the coverage check, reconstruction, accumulation; then the next frame or
the output. -/
def frameEndAct : Act Unit := do
  let s ← get
  require s.coverComplete
  let comps := List.range s.fr.nf.toNat
  forComps reconstructComp comps
  if s.hi.dhp.isSome then forComps accumulateComp comps else pure ()
  update fun s => { s with sq := { s.sq with
    frameIx := s.sq.frameIx + 1, scanIx := 0
    phase := if s.sq.frameIx + 1 < s.arena.layout.frames.length then .replaySof else .output } }

end Sys2Proof.Machine
end

