-- ==== Sys2Proof/Machine/Scanner.lean ====
section
/-! DEFINITION. The Marker Layout Scanner (R200-R214): reading the next marker, the entropy walk, and what each marker does while
the layout is built. -/

namespace Sys2Proof.Machine

open Sys2Proof.Config

/-- LAYOUT replaced. -/
def setLayout (l : Layout) : Act Unit := update fun s => { s with arena := { s.arena with layout := l } }

/-- The phase replaced. -/
def setPhase (p : Phase) : Act Unit := update fun s => { s with sq := { s.sq with phase := p } }

/-- The last element of a list changed. -/
def mapLast {α : Type} (f : α → α) : List α → List α
  | [] => []
  | [x] => [f x]
  | x :: y :: t => x :: mapLast f (y :: t)

/-- The layout with a frame record appended (R203). -/
def Layout.addFrame (l : Layout) (off : Nat) (n : BitVec 4) : Layout := { l with frames := l.frames ++ [⟨off, n, []⟩] }

/-- The layout with a scan record appended to its last frame (R205). -/
def Layout.addScan (l : Layout) (off : Nat) : Layout :=
  { l with frames := mapLast (fun f => { f with scans := f.scans ++ [⟨off, []⟩] }) l.frames }

/-- The layout with an interval appended to its last scan (R206). -/
def Layout.addInterval (l : Layout) (iv : Interval) : Layout :=
  { l with frames := mapLast (fun f => { f with scans := mapLast (fun sc =>
    { sc with intervals := sc.intervals ++ [iv] }) f.scans }) l.frames }

/-- The layout with an AUX entry appended (R213). -/
def Layout.addAux (l : Layout) (off : Nat) (k : AuxKind) : Layout := { l with aux := l.aux ++ [⟨off, k⟩] }

/-- A layout record appended: its allocation (R106), then the new layout. -/
def appendRecord (f : Layout → Layout) : Act Unit := do
  let _ ← alloc .layoutRecord
  let s ← get
  setLayout (f s.arena.layout)

/-- The image is hierarchical: it has a DHP (R470). The DHP's content is a register, which no breach of the arena draws (log 15). -/
def State.hierarchical (s : State) : Bool := s.hi.dhp.isSome

/-! ### The marker loop (R202) -/

/-- Fill bytes skipped from offset `j` on, at most `fuel` of them (R130, R202): the offset of the first byte that is none. -/
def skipFill : Nat → Nat → Act Nat
  | 0, _ => raise .formatError
  | fuel + 1, j => do
    let b ← memRead1 j
    if b = 0xFF then skipFill fuel (j + 1) else pure j

/-- The marker at BP (R202): BP moves past it, MOFF is its offset. No marker before IN_LEN, a byte that is not 0xFF, or the
pair 0xFF 0x00 is a FormatError. -/
def readMarker : Act Byte := do
  let bp ← getBp
  let s ← get
  require (decide (bp + 2 ≤ s.inLen))
  let b ← memRead1 bp
  require (b == 0xFF)
  let j ← skipFill s.inLen (bp + 1)
  let m ← memRead1 j
  require (m != 0x00)
  update fun s => { s with rd := { s.rd with bp := j + 1 }, sq := { s.sq with moff := j - 1 } }
  pure m

/-- What the entropy walk found (R206): the first 0xFF of a marker with its fill bytes, the offset of the code byte, and the code
byte. -/
structure Boundary where
  start : Nat
  code  : Nat
  q     : Byte
  deriving DecidableEq, Repr

/-- The entropy walk from offset `bp` on (R206), at most `fuel` bytes: entropy bytes and stuffed pairs are passed over. -/
def entropyWalk : Nat → Nat → Act Boundary
  | 0, _ => raise .formatError
  | fuel + 1, bp => do
    let s ← get
    require (decide (bp < s.inLen))
    let b ← memRead1 bp
    if b ≠ 0xFF then entropyWalk fuel (bp + 1)
    else
      let j ← skipFill s.inLen (bp + 1)
      let q ← memRead1 j
      if q = 0x00 then
        require (j == bp + 1)
        entropyWalk fuel (bp + 2)
      else pure ⟨bp, j, q⟩

/-- The interval that ends at BP appended to the scan (R206). -/
def appendInterval : Act Unit := do
  let s ← get
  appendRecord fun l => l.addInterval ⟨s.sq.ivstart, s.rd.bp - s.sq.ivstart⟩

/-- The walk to the end of the interval (R206): BP is where it ends, MOFF the marker that ends it; the marker's code byte. -/
def walkInterval : Act Byte := do
  let bp ← getBp
  let s ← get
  let b ← entropyWalk (s.inLen + 1) bp
  update fun s => { s with rd := { s.rd with bp := b.start }, sq := { s.sq with moff := b.code - 1 } }
  pure b.q

/-- A marker other than RSTn ends the scan's entropy data (R206): the marker loop dispatches it next. -/
def endEntropy : Act Unit := do
  appendInterval
  update fun s => { s with rd := { s.rd with bp := s.sq.moff }, sq := { s.sq with scanEnd := s.sq.moff, phase := .scan } }

/-! ### The markers (R200-R213) -/

/-- SOI (R200): only as the first two bytes; anywhere else illegal (R201). -/
def scanSoi : Act Unit := do
  let s ← get
  require (s.sq.phase == .soi)
  setBp 2
  setPhase .scan

/-- An illegal marker (R201). -/
def scanIllegal : Act Unit := raise .formatError

/-- RSTm (R206-R208): inside entropy data it must be RST(EXPECT_RST), and it ends the interval; elsewhere it is a FormatError. -/
def scanRst (m : BitVec 3) : Act Unit := do
  let s ← get
  require (s.sq.phase == .entropy)
  appendInterval
  require (m == s.sc.expectRst)
  update fun s => { s with
    sc := { s.sc with expectRst := s.sc.expectRst + 1 }
    rd := { s.rd with bp := s.sq.moff + 2 }
    sq := { s.sq with ivstart := s.sq.moff + 2 } }

/-- SOFn (R203): a frame record. Its length and Nf are checked before the record is allocated (the model's order, log 38). -/
def scanSof (n : BitVec 4) : Act Unit := do
  let s ← get
  require (s.hierarchical || s.arena.layout.frames.isEmpty)
  require (s.hierarchical || !sofDifferential n)
  let lx ← readLength
  let nf ← readNf lx
  require (decide (1 ≤ nf) && decide (nf ≤ 4))
  appendRecord fun l => l.addFrame s.sq.moff n
  skipSegment lx

/-- SOS (R204, R205): a scan record of the last frame; the entropy data begins after the segment. Its
length and Ns are checked before the record is allocated (log 38). -/
def scanSos : Act Unit := do
  let s ← get
  require (!s.arena.layout.frames.isEmpty)
  let lx ← readLength
  let _ ← readNs lx
  appendRecord fun l => l.addScan s.sq.moff
  skipSegment lx
  update fun s => { s with
    sq := { s.sq with ivstart := s.rd.bp, phase := .entropy }
    sc := { s.sc with expectRst := 0 } }

/-- Where a DNL may stand (R213, R224; log 17): Lx is 4; where the SOF of its frame gives Y = 0, only right behind the entropy data of
the frame's first scan. -/
def dnlPlace (lx : Nat) : Act Unit := do
  let s ← get
  require (lx == 4)
  let f ← orFormatError s.arena.layout.frames.getLast?
  let y ← memRead2 (f.sofOff + 5)
  require (y != 0 || (f.scans.length == 1 && s.sq.moff == s.sq.scanEnd))

/-- A table marker (R213): recorded in AUX, its payload read when it is replayed. Its length, and the place of a DNL, are checked before
the record is allocated (log 38). -/
def scanAux (k : AuxKind) : Act Unit := do
  let s ← get
  let lx ← readLength
  if k = .dnl then dnlPlace lx else pure ()
  appendRecord fun l => l.addAux s.sq.moff k
  skipSegment lx

/-- DHP (R209): the final image of a hierarchical image, before any frame, once. -/
def scanDhp : Act Unit := do
  let s ← get
  require (!s.hierarchical && s.arena.layout.frames.isEmpty)
  let lx ← readLength
  let h ← readFrameHeader lx
  update fun s => { s with
    hi := { s.hi with dhp := some ⟨BitVec.ofNat 8 h.p, BitVec.ofNat 16 h.y, BitVec.ofNat 16 h.x, h.comps.map fun c => (c.1, c.2.1, c.2.2.1)⟩ }
    arena := { s.arena with layout := { s.arena.layout with dhpOff := some s.sq.moff } }
    regs := { s.regs with info := infoMark s.regs.info 3 } }
  skipSegment lx

/-- EOI (R210): the layout is complete, with at least one frame and a scan in every frame, and no EXP outside a hierarchical image
(R226, R584; log 18); frame 0 is decoded next. -/
def scanEoi : Act Unit := do
  let s ← get
  require (s.hierarchical || s.arena.layout.aux.all fun a => a.marker != .exp)
  require (!s.arena.layout.frames.isEmpty && s.arena.layout.frames.all fun f => !f.scans.isEmpty)
  update fun s => { s with sq := { s.sq with phase := .replaySof, frameIx := 0, scanIx := 0, auxPos := 0 } }

/-- A segment whose payload is not interpreted (R212). -/
def scanSkip : Act Unit := do
  let lx ← readLength
  skipSegment lx

/-- An application segment counts: it carries its identifier, no frame has been met, and its slot is free (R211). -/
def appMatches (lx : Nat) (ident : List Byte) (slot : Layout → Option Nat) : Act Bool := do
  let s ← get
  let hit ← payloadStarts lx ident
  pure (hit && s.arena.layout.frames.isEmpty && (slot s.arena.layout).isNone)

/-- APP0 (R211): JFIF_OFF and INFO[0]. -/
def scanApp0 : Act Unit := do
  let lx ← readLength
  if ← appMatches lx jfifIdent (·.jfifOff) then
    update fun s => { s with
      arena := { s.arena with layout := { s.arena.layout with jfifOff := some s.sq.moff } }
      regs := { s.regs with info := infoMark s.regs.info 0 } }
  else pure ()
  skipSegment lx

/-- APP1 (R211): EXIF_OFF, INFO[1], and the host's EXIF_OFF and EXIF_LEN. -/
def scanApp1 : Act Unit := do
  let lx ← readLength
  if ← appMatches lx exifIdent (·.exifOff) then
    update fun s => { s with
      arena := { s.arena with layout := { s.arena.layout with exifOff := some s.sq.moff } }
      regs := { s.regs with
        info := infoMark s.regs.info 1
        exifOff := BitVec.ofNat 32 (s.sq.moff + 4 + 6)
        exifLen := BitVec.ofNat 32 (lx - 8) } }
  else pure ()
  skipSegment lx

/-- Payload byte 11 of an Adobe segment, where the payload has one (R143, log 21). -/
def readAdobeT (lx : Nat) : Act (Option Byte) := do
  let bp ← getBp
  if lx < 14 then pure none
  else
    let t ← memRead1 (bp + 13)
    pure (some t)

/-- APP14 (R211): ADOBE_OFF, INFO[2] and the transform code. -/
def scanApp14 : Act Unit := do
  let lx ← readLength
  if ← appMatches lx adobeIdent (·.adobeOff) then
    let t ← readAdobeT lx
    update fun s => { s with
      arena := { s.arena with layout := { s.arena.layout with adobeOff := some s.sq.moff } }
      hi := { s.hi with adobeT := t }
      regs := { s.regs with info := infoMark s.regs.info 2 } }
  else pure ()
  skipSegment lx

end Sys2Proof.Machine
end

