-- ==== Sys2Proof/Machine/Builder.lean ====
section
/-! DEFINITION. The Decoder Table Builder (R215-R227): the replay of table markers, the frame header (R218, R471, R451) and the scan
header with its checks (R219, R255, R256, R227, R407, R258). BP is the length field of the marker's segment when these run. -/

namespace Sys2Proof.Machine

open Sys2Proof.Config

/-! ### Table markers (R220-R226) -/

/-- The slots of a table class: DC (0) or AC (1). -/
def Arena.slot (a : Arena) (cls i : Nat) : Option HuffTable :=
  vget (if cls = 0 then a.dcTables else a.acTables) i none

/-- The arena with a slot replaced. -/
def Arena.setSlot (a : Arena) (cls i : Nat) (t : HuffTable) : Arena :=
  if cls = 0 then { a with dcTables := vset a.dcTables i (some t) }
  else { a with acTables := vset a.acTables i (some t) }

/-- `HT[cls][i] <- T` (R41, R220): the codes are built, then the new trie is allocated, then the superseded one is released (R290, R106,
R216; the place of the allocation behind the check for an overfull code and before the release is the model's, log 37). -/
def installTable (cls i : Nat) (counts : List Nat) (vals : List Byte) : Act Unit := do
  let codes ← orFormatError (buildTrie counts vals)
  let size ← alloc (.trie vals.length)
  let s ← get
  release (((s.arena.slot cls i).map (·.bytes)).getD 0)
  update fun s => { s with arena := s.arena.setSlot cls i ⟨codes, size⟩ }

/-- The table definitions of a DHT payload from `p` to `e` (R220). -/
def dhtTables : Nat → Nat → Nat → Act Unit
  | 0, _, _ => stop .loopBound
  | fuel + 1, p, e => do
    if p < e then
      require (decide (p + 17 ≤ e))
      let t ← memRead1 p
      require (decide (hiNibble t ≤ 1) && decide (loNibble t ≤ 3))
      let counts ← memReadList 16 (p + 1)
      let m := (counts.map (·.toNat)).sum
      require (decide (m ≤ 256) && decide (p + 17 + m ≤ e))
      let vals ← memReadList m (p + 17)
      installTable (hiNibble t) (loNibble t) (counts.map (·.toNat)) vals
      dhtTables fuel (p + 17 + m) e
    else require (p == e)

/-- DHT, replayed (R220). -/
def replayDht : Act Unit := do
  let lx ← readLength
  let bp ← getBp
  dhtTables (lx + 1) (bp + 2) (bp + lx)
  skipSegment lx

/-- The 64 entries of a quantization table. -/
def qtableOf (entries : List (BitVec 16)) : QTable := Vector.ofFn fun k => lget entries k.val 0

/-- The table definitions of a DQT payload from `p` to `e` (R221). -/
def dqtTables : Nat → Nat → Nat → Act Unit
  | 0, _, _ => stop .loopBound
  | fuel + 1, p, e => do
    if p < e then
      let t ← memRead1 p
      require (decide (hiNibble t ≤ 1) && decide (loNibble t ≤ 3))
      let w := hiNibble t + 1
      require (decide (p + 1 + 64 * w ≤ e))
      let entries ← readQEntries w 64 (p + 1)
      update fun s => { s with tb := { s.tb with qt := vset s.tb.qt (loNibble t) (some (qtableOf entries)) } }
      dqtTables fuel (p + 1 + 64 * w) e
    else require (p == e)

/-- DQT, replayed (R221). -/
def replayDqt : Act Unit := do
  let lx ← readLength
  let bp ← getBp
  dqtTables (lx + 1) (bp + 2) (bp + lx)
  skipSegment lx

/-- One conditioning definition (R222): DC needs L < U, AC needs Kx in 1..63. -/
def setConditioning (t cs : Byte) : Act Unit := do
  require (decide (hiNibble t ≤ 1) && decide (loNibble t ≤ 3))
  if hiNibble t = 0 then
    require (decide (loNibble cs < hiNibble cs))
    update fun s => { s with tb := { s.tb with dacDc := vset s.tb.dacDc (loNibble t) cs } }
  else
    require (decide (1 ≤ cs.toNat) && decide (cs.toNat ≤ 63))
    update fun s => { s with tb := { s.tb with dacAc := vset s.tb.dacAc (loNibble t) cs } }

/-- `n` definitions of a DAC payload from `p` on (R222). -/
def dacPairs : Nat → Nat → Act Unit
  | 0, _ => pure ()
  | n + 1, p => do
    let t ← memRead1 p
    let cs ← memRead1 (p + 1)
    setConditioning t cs
    dacPairs n (p + 2)

/-- DAC, replayed (R222). -/
def replayDac : Act Unit := do
  let lx ← readLength
  let bp ← getBp
  require ((lx - 2) % 2 == 0)
  dacPairs ((lx - 2) / 2) (bp + 2)
  skipSegment lx

/-- DRI, replayed (R223). -/
def replayDri : Act Unit := do
  let lx ← readLength
  let bp ← getBp
  require (lx == 4)
  let ri ← memRead2 (bp + 2)
  update fun s => { s with tb := { s.tb with ri := BitVec.ofNat 16 ri } }
  skipSegment lx

/-- DNL, replayed (R224): its value was taken when the frame header was parsed; here only its length is checked. -/
def replayDnl : Act Unit := do
  let lx ← readLength
  require (lx == 4)
  skipSegment lx

/-- EXP, replayed (R226): recorded for the next differential frame; a FormatError outside a hierarchical image. -/
def replayExp : Act Unit := do
  let s ← get
  let lx ← readLength
  let bp ← getBp
  require (s.hierarchical && lx == 3)
  let e ← memRead1 (bp + 2)
  require (decide (hiNibble e ≤ 1) && decide (loNibble e ≤ 1))
  update fun s => { s with hi := { s.hi with exp := some (hiNibble e == 1, loNibble e == 1) } }
  skipSegment lx

/-! ### The frame header (R218) -/

/-- The sample precisions of a process (R218, D40). -/
def precisionOk (n : BitVec 4) (p : Nat) : Bool :=
  if n = 0 then p == 8
  else if sofLossless n then decide (2 ≤ p) && decide (p ≤ 16)
  else p == 8 || p == 12

/-- The component fields of a frame header (R218): IDs distinct, H and V in 1..4, Tq at most 3. -/
def frameCompsOk (comps : List (Byte × Nat × Nat × Nat)) : Bool :=
  decide ((comps.map (·.1)).Nodup) &&
  comps.all fun c => decide (1 ≤ c.2.1) && decide (c.2.1 ≤ 4) && decide (1 ≤ c.2.2.1) && decide (c.2.2.1 ≤ 4) &&
    decide (c.2.2.2 ≤ 3)

/-- The offset of the DNL that gives the frame's lines (R224): the first after the frame's first scan and before the next frame
(log 17). -/
def Layout.dnlOf (l : Layout) (frameIx : Nat) : Option Nat :=
  match l.frames[frameIx]? with
  | none => none
  | some f =>
    match f.scans.head? with
    | none => none
    | some sc =>
      (l.aux.find? fun a => a.marker == .dnl && decide (sc.sosOff < a.off) &&
        (match l.frames[frameIx + 1]? with
         | some g => decide (a.off < g.sofOff)
         | none => true)).map (·.off)

/-- Y of the frame: the header's, or NL of its DNL where that is 0 (R218, R224). That its errors are found when the frame is decoded, as
R218 writes it, and not in the layout scan, of which R224 and D13 speak, is the model's choice (log 35). -/
def resolveLines (y : Nat) : Act Nat := do
  if y ≠ 0 then pure y
  else
    let s ← get
    let off ← orFormatError (s.arena.layout.dnlOf s.sq.frameIx)
    let lx ← memRead2 (off + 2)
    require (lx == 4)
    let nl ← memRead2 (off + 4)
    require (decide (1 ≤ nl))
    pure nl

/-- A dimension product leaves 32-bit arithmetic (R107, log 6): the output's 8*X*Y bytes, or ALLOC_BYTES. -/
def tooLarge (x y bytes : Nat) : Bool := decide (2 ^ 32 ≤ 8 * x * y) || decide (2 ^ 32 ≤ bytes)

/-- PLANE[c] of a new frame: all coefficients (or samples) 0 (R45). -/
def Frame.newPlane (f : Frame) (c : Nat) : Plane :=
  if f.isLossless then
    let sw := losslessSamples f.x.toNat f.hmax.toNat (f.hOf c)
    let sh := losslessSamples f.y.toNat f.vmax.toNat (f.vOf c)
    .lossless sw sh (List.replicate ((sw + 1) * (sh + 1)) 0)
  else
    let bw := dctBlocks f.x.toNat f.hmax.toNat (f.hOf c)
    let bh := dctBlocks f.y.toNat f.vmax.toNat (f.vOf c)
    .dct bw bh (List.replicate (bw * bh) (Vector.replicate 64 0))

/-- The frame registers of a header (R38, R39, R218); TD and TA stay until an SOS writes them. -/
def Frame.ofHeader (old : Frame) (n : BitVec 4) (h : FrameHeader) (y : Nat) (exp : Option (Bool × Bool)) : Frame where
  ft := n
  p := BitVec.ofNat 5 h.p
  y := BitVec.ofNat 16 y
  x := BitVec.ofNat 16 h.x
  nf := BitVec.ofNat 3 h.comps.length
  hmax := BitVec.ofNat 3 (maxOf (h.comps.map (·.2.1)))
  vmax := BitVec.ofNat 3 (maxOf (h.comps.map (·.2.2.1)))
  comp := Vector.ofFn fun i =>
    match h.comps[i.val]? with
    | some (id, hs, vs, tq) =>
      { vget old.comp i.val default with
        id := id, h := BitVec.ofNat 3 hs, v := BitVec.ofNat 3 vs, tq := BitVec.ofNat 2 tq }
    | none => vget old.comp i.val default
  seen := Vector.replicate 4 false
  pt := Vector.replicate 4 0
  exp := exp

/-- The component IDs of the current frame, in frame order. -/
def Frame.ids (f : Frame) : List Byte := (List.range f.nf.toNat).map fun c => (f.compAt c).id

/-- The checks of a frame of a hierarchical image (R471); the components that earlier frames contained are those in ACC. -/
def hierFrameOk (d : Dhp) (acc : List AccPlane) (f : Frame) : Bool :=
  ((List.range f.nf.toNat).all fun c =>
    (match d.comps.find? (fun e => e.1 == (f.compAt c).id) with
     | some e => e.2.1 == f.hOf c && e.2.2 == f.vOf c
     | none => false) &&
    ((findAcc acc (f.compAt c).id).isSome == f.isDifferential)) &&
  f.p.toNat == d.p.toNat && decide (f.x.toNat ≤ d.x.toNat) && decide (f.y.toNat ≤ d.y.toNat)

/-- The transfer function is selected once, at the first frame (R451); FormatError where no row matches. -/
def selectTransfer : Act Unit := do
  let s ← get
  if s.sq.frameIx = 0 then
    let k ← orFormatError (transferSelect s.params s.fr.ids s.arena.layout.jfifOff.isSome
      s.arena.layout.adobeOff.isSome s.hi.adobeT)
    update fun s => { s with hi := { s.hi with transfer := some k, ids := s.fr.ids } }
  else pure ()

/-- The size checks and the planes' allocation (R107, R106, R218), of each frame; no other check of a hierarchical image's own X and Y
is made (log 6). -/
def allocPlanes (n : BitVec 4) (h : FrameHeader) (y : Nat) : Act Unit := do
  let s ← get
  let kind := AllocKind.planes (sofProcess n) h.x y h.comps.length (h.comps.map fun c => (c.2.1, c.2.2.1))
  if tooLarge h.x y (allocSize s.params kind) then raise .imageTooLarge
  else
    let _ ← alloc kind

/-- The state of a new frame (R218): frame registers, planes, coverage, INFO, IMG_WIDTH and IMG_HEIGHT. -/
def State.openFrame (s : State) (n : BitVec 4) (h : FrameHeader) (y : Nat) : State :=
  let exp := if sofDifferential n then s.hi.exp else none
  let fr := s.fr.ofHeader n h y exp
  { s with
    fr := fr
    tb := { s.tb with cover := Tables.init.cover, ql := Tables.init.ql }
    hi := { s.hi with exp := if sofDifferential n then none else s.hi.exp }
    arena := { s.arena with
      planes := Vector.ofFn fun c => if c.val < h.comps.length then some (fr.newPlane c.val) else none
      rs := Arena.init.rs }
    regs := { s.regs with
      info := infoFrame s.regs.info n fr.nf fr.p
      imgWidth := if s.hierarchical then s.regs.imgWidth else fr.x.setWidth 32
      imgHeight := if s.hierarchical then s.regs.imgHeight else fr.y.setWidth 32 } }

/-- SOFn when the frame is decoded (R218), with the checks of a hierarchical image (R471) and the choice of transfer (R451). The
frame's first scan is replayed next. -/
def parseSof (n : BitVec 4) : Act Unit := do
  let lx ← readLength
  let h ← readFrameHeader lx
  require (decide (1 ≤ h.comps.length) && decide (h.comps.length ≤ 4))
  require (decide (1 ≤ h.x))
  require (precisionOk n h.p)
  let s ← get
  require (!sofLossless n || s.params.admitLossless)
  require (frameCompsOk h.comps)
  let y ← resolveLines h.y
  allocPlanes n h y
  update fun s => s.openFrame n h y
  let s ← get
  match s.hi.dhp with
    | some d => require (hierFrameOk d s.arena.acc s.fr)
    | none => pure ()
  selectTransfer
  skipSegment lx
  update fun s => { s with sq := { s.sq with phase := .replaySos, scanIx := 0 } }

/-! ### The scan header (R219) and the scan's start -/

/-- The frame components a scan header selects, each later in frame order than the one before (R219); none where a check fails. -/
def matchComps (ids : List Byte) : Nat → List (Byte × Nat × Nat) → Option (List Nat)
  | _, [] => some []
  | lo, (cs, td, ta) :: rest =>
    match ids.findIdx? (· == cs) with
    | none => none
    | some i => if lo ≤ i ∧ td ≤ 3 ∧ ta ≤ 3 then (matchComps ids (i + 1) rest).map (i :: ·) else none

/-- COMP with the table selectors of the scan's components (R219). -/
def Frame.selectTables (f : Frame) : List (Nat × Byte × Nat × Nat) → Frame
  | [] => f
  | (c, _, td, ta) :: rest =>
    Frame.selectTables
      { f with comp := vset f.comp c { f.compAt c with td := BitVec.ofNat 2 td, ta := BitVec.ofNat 2 ta } } rest

/-- SOS header (R219): NS, SC, SS, SE, AH, AL and the table selectors. -/
def parseScanHeader : Act Unit := do
  let lx ← readLength
  let h ← readScanHeader lx
  require (decide (h.ss ≤ 63) && decide (h.se ≤ 63))
  let s ← get
  let cs ← orFormatError (matchComps s.fr.ids 0 h.comps)
  require (decide (cs.length ≤ 1) || decide ((cs.map fun c => s.fr.hOf c * s.fr.vOf c).sum ≤ 10))
  update fun s => { s with
    fr := s.fr.selectTables (cs.zip h.comps)
    sc := { s.sc with
      ns := BitVec.ofNat 3 cs.length
      sc := Vector.ofFn fun j => BitVec.ofNat 2 (lget cs j.val 0)
      ss := BitVec.ofNat 6 h.ss, se := BitVec.ofNat 6 h.se, ah := BitVec.ofNat 4 h.ah, al := BitVec.ofNat 4 h.al } }
  skipSegment lx

/-- The reference Huffman tables (R225): at the first Huffman scan of an image without any DHT, once. -/
def installReference : Act Unit := do
  let s ← get
  if s.fr.isArithmetic || s.tb.defaultHt || s.arena.layout.aux.any (·.marker == .dht) then pure ()
  else
    installTable 0 0 refDcLumaBits refDcLumaVals
    installTable 1 0 refAcLumaBits refAcLumaVals
    installTable 0 1 refDcChromaBits refDcChromaVals
    installTable 1 1 refAcChromaBits refAcChromaVals
    update fun s => { s with tb := { s.tb with defaultHt := true } }

/-- The scan's routine reads DC symbols (R227): HUF_SEQ, HUF_DC_FIRST, HUF_LOSSLESS. -/
def State.readsDc (s : State) : Bool :=
  !s.fr.isArithmetic && (!sofProgressive s.fr.ft || (s.sc.ss == 0 && s.sc.ah == 0))

/-- The scan's routine reads AC symbols (R227): HUF_SEQ, HUF_AC_FIRST, HUF_AC_REFINE. -/
def State.readsAc (s : State) : Bool :=
  !s.fr.isArithmetic && !s.fr.isLossless && (!sofProgressive s.fr.ft || s.sc.ss != 0)

/-- The tables of one scan component (R227): its Huffman tables are defined; at its first scan of a DCT frame its quantization
table is defined and latched in QL. The component is in a scan of the frame from now on, and its point transform is AL (log 24). -/
def claimComp (c : Nat) : Act Unit := do
  let s ← get
  let k := s.fr.compAt c
  require (!s.readsDc || (vget s.arena.dcTables k.td.toNat none).isSome)
  require (!s.readsAc || (vget s.arena.acTables k.ta.toNat none).isSome)
  if !s.fr.isLossless && !vget s.fr.seen c false then
    let q ← orFormatError (vget s.tb.qt k.tq.toNat none)
    update fun s => { s with tb := { s.tb with ql := vset s.tb.ql c (some q) } }
  else pure ()
  update fun s => { s with fr := { s.fr with seen := vset s.fr.seen c true, pt := vset s.fr.pt c s.sc.al } }

/-- The sequencing registers of a scan: MCUD (R252), NUNITS (R250, R251, R254), NI (R258); its first interval is entered next. MCUD is a
register and no allocation of R106, which is the model's choice (log 5). -/
def State.openScan (s : State) : State :=
  { s with
    sc := { s.sc with
      mcud := s.mcuEntries, nunits := s.unitCount, unit := 0, entry := 0, intv := 0
      ni := intervalCount s.tb.ri.toNat s.unitCount }
    sq := { s.sq with phase := .interval } }

/-- SOS when the scan is decoded: the header (R219), the scan parameters (R255), coverage (R256), the reference tables (R225), the
tables (R227), the restart rows of a lossless scan (R407), the interval count (R258). The place of R225's allocations among the checks,
and of R407 and R258 behind R227, is the model's (log 38). -/
def parseSos : Act Unit := do
  parseScanHeader
  let s ← get
  require (scanParamsOk s.fr.ft s.fr.p.toNat s.sc.ns.toNat s.sc.ss.toNat s.sc.se.toNat s.sc.ah.toNat s.sc.al.toNat)
  forComps coverComp s.sc.comps
  installReference
  forComps claimComp s.sc.comps
  let s ← get
  require s.restartRowsOk
  update State.openScan
  let s ← get
  let sr ← orUndefined .layout s.scanRec
  require (sr.intervals.length == s.sc.ni)

end Sys2Proof.Machine
end

