-- ==== Sys2Proof/Machine/Markers.lean ====
section
/-! DEFINITION. The meanings of the markers (R132, R200-R227): what a marker does in the layout scan, and, for the table, frame and
scan markers, what it does when it is replayed (R215, R216). -/

namespace Sys2Proof.Machine

/-- The engine is replaying the layout, not building it (R215, R216). -/
def State.replaying (s : State) : Bool := s.sq.phase == .replaySof || s.sq.phase == .replaySos

/-- A marker with two meanings: `scan` in the layout scan, `replay` in the replay. -/
def byPhase (scan replay : Act Unit) : Act Unit := do
  let s ← get
  if s.replaying then replay else scan

/-- SOFn: a frame record in the layout scan (R203), the frame header when the frame is decoded (R218). -/
def sofAct (n : BitVec 4) : Act Unit := byPhase (scanSof n) (parseSof n)

/-- TEM: reserved, FormatError (R201). -/
def execTem (s : State) : Host.Outcome State Fault Refusal := runAct scanIllegal s

/-- RES 0xFF02-0xFF03: reserved, FormatError (R201). -/
def execRes02 (_ : BitVec 1) (s : State) : Host.Outcome State Fault Refusal := runAct scanIllegal s

/-- RES 0xFF04-0xFF07: reserved, FormatError (R201). -/
def execRes04 (_ : BitVec 2) (s : State) : Host.Outcome State Fault Refusal := runAct scanIllegal s

/-- RES 0xFF08-0xFF0F: reserved, FormatError (R201). -/
def execRes08 (_ : BitVec 3) (s : State) : Host.Outcome State Fault Refusal := runAct scanIllegal s

/-- RES 0xFF10-0xFF1F: reserved, FormatError (R201). -/
def execRes10 (_ : BitVec 4) (s : State) : Host.Outcome State Fault Refusal := runAct scanIllegal s

/-- RES 0xFF20-0xFF3F: reserved, FormatError (R201). -/
def execRes20 (_ : BitVec 5) (s : State) : Host.Outcome State Fault Refusal := runAct scanIllegal s

/-- RES 0xFF40-0xFF7F: reserved, FormatError (R201). -/
def execRes40 (_ : BitVec 6) (s : State) : Host.Outcome State Fault Refusal := runAct scanIllegal s

/-- RES 0xFF80-0xFFBF: reserved, FormatError (R201). -/
def execRes80 (_ : BitVec 6) (s : State) : Host.Outcome State Fault Refusal := runAct scanIllegal s

/-- JPG: reserved, FormatError (R201). -/
def execJpg (s : State) : Host.Outcome State Fault Refusal := runAct scanIllegal s

/-- JPG0-JPG7: reserved, FormatError (R201). -/
def execJpg0 (_ : BitVec 3) (s : State) : Host.Outcome State Fault Refusal := runAct scanIllegal s

/-- JPG8-JPG11: reserved, FormatError (R201). -/
def execJpg8 (_ : BitVec 2) (s : State) : Host.Outcome State Fault Refusal := runAct scanIllegal s

/-- JPG12-JPG13: reserved, FormatError (R201). -/
def execJpg12 (_ : BitVec 1) (s : State) : Host.Outcome State Fault Refusal := runAct scanIllegal s

/-- SOF0 (R203, R218). -/
def execSof0 (s : State) : Host.Outcome State Fault Refusal := runAct (sofAct 0) s

/-- SOF1 (R203, R218). -/
def execSof1 (s : State) : Host.Outcome State Fault Refusal := runAct (sofAct 1) s

/-- SOF2 (R203, R218). -/
def execSof2 (s : State) : Host.Outcome State Fault Refusal := runAct (sofAct 2) s

/-- SOF3 (R203, R218). -/
def execSof3 (s : State) : Host.Outcome State Fault Refusal := runAct (sofAct 3) s

/-- SOF5 (R203, R218). -/
def execSof5 (s : State) : Host.Outcome State Fault Refusal := runAct (sofAct 5) s

/-- SOF6 (R203, R218). -/
def execSof6 (s : State) : Host.Outcome State Fault Refusal := runAct (sofAct 6) s

/-- SOF7 (R203, R218). -/
def execSof7 (s : State) : Host.Outcome State Fault Refusal := runAct (sofAct 7) s

/-- SOF9 (R203, R218). -/
def execSof9 (s : State) : Host.Outcome State Fault Refusal := runAct (sofAct 9) s

/-- SOF10 (R203, R218). -/
def execSof10 (s : State) : Host.Outcome State Fault Refusal := runAct (sofAct 10) s

/-- SOF11 (R203, R218). -/
def execSof11 (s : State) : Host.Outcome State Fault Refusal := runAct (sofAct 11) s

/-- SOF13 (R203, R218). -/
def execSof13 (s : State) : Host.Outcome State Fault Refusal := runAct (sofAct 13) s

/-- SOF14 (R203, R218). -/
def execSof14 (s : State) : Host.Outcome State Fault Refusal := runAct (sofAct 14) s

/-- SOF15 (R203, R218). -/
def execSof15 (s : State) : Host.Outcome State Fault Refusal := runAct (sofAct 15) s

/-- DHT (R213, R220). -/
def execDht (s : State) : Host.Outcome State Fault Refusal := runAct (byPhase (scanAux .dht) replayDht) s

/-- DQT (R213, R221). -/
def execDqt (s : State) : Host.Outcome State Fault Refusal := runAct (byPhase (scanAux .dqt) replayDqt) s

/-- DAC (R213, R222; conflict C2). -/
def execDac (s : State) : Host.Outcome State Fault Refusal := runAct (byPhase (scanAux .dac) replayDac) s

/-- DRI (R213, R223). -/
def execDri (s : State) : Host.Outcome State Fault Refusal := runAct (byPhase (scanAux .dri) replayDri) s

/-- DNL (R213, R224). -/
def execDnl (s : State) : Host.Outcome State Fault Refusal := runAct (byPhase (scanAux .dnl) replayDnl) s

/-- EXP (R213, R226). -/
def execExp (s : State) : Host.Outcome State Fault Refusal := runAct (byPhase (scanAux .exp) replayExp) s

/-- RSTm (R206, R207, R208). -/
def execRst (m : BitVec 3) (s : State) : Host.Outcome State Fault Refusal := runAct (scanRst m) s

/-- SOI (R200, R201). -/
def execSoi (s : State) : Host.Outcome State Fault Refusal := runAct scanSoi s

/-- EOI (R210). -/
def execEoi (s : State) : Host.Outcome State Fault Refusal := runAct scanEoi s

/-- SOS: a scan record in the layout scan (R204, R205), the scan header when the scan is decoded (R219). -/
def execSos (s : State) : Host.Outcome State Fault Refusal := runAct (byPhase scanSos parseSos) s

/-- DHP (R209). -/
def execDhp (s : State) : Host.Outcome State Fault Refusal := runAct scanDhp s

/-- APP0 (R211). -/
def execApp0 (s : State) : Host.Outcome State Fault Refusal := runAct scanApp0 s

/-- APP1 (R211). -/
def execApp1 (s : State) : Host.Outcome State Fault Refusal := runAct scanApp1 s

/-- APP2-APP3: skipped (R212). -/
def execApp2 (_ : BitVec 1) (s : State) : Host.Outcome State Fault Refusal := runAct scanSkip s

/-- APP4-APP7: skipped (R212). -/
def execApp4 (_ : BitVec 2) (s : State) : Host.Outcome State Fault Refusal := runAct scanSkip s

/-- APP8-APP11: skipped (R212). -/
def execApp8 (_ : BitVec 2) (s : State) : Host.Outcome State Fault Refusal := runAct scanSkip s

/-- APP12-APP13: skipped (R212). -/
def execApp12 (_ : BitVec 1) (s : State) : Host.Outcome State Fault Refusal := runAct scanSkip s

/-- APP14 (R211). -/
def execApp14 (s : State) : Host.Outcome State Fault Refusal := runAct scanApp14 s

/-- APP15: skipped (R212). -/
def execApp15 (s : State) : Host.Outcome State Fault Refusal := runAct scanSkip s

/-- COM: skipped (R212). -/
def execCom (s : State) : Host.Outcome State Fault Refusal := runAct scanSkip s

end Sys2Proof.Machine
end

