-- ==== Sys2Proof/Machine/Dispatch.lean ====
section
/-! DEFINITION. The meaning of each instruction. -/

namespace Sys2Proof.Machine

def exec (i : Instr) (s : State) : Host.Outcome State Fault Refusal :=
  match i with
  | .tem => Sys2Proof.Machine.execTem s
  | .res02 low => Sys2Proof.Machine.execRes02 low s
  | .res04 low => Sys2Proof.Machine.execRes04 low s
  | .res08 low => Sys2Proof.Machine.execRes08 low s
  | .res10 low => Sys2Proof.Machine.execRes10 low s
  | .res20 low => Sys2Proof.Machine.execRes20 low s
  | .res40 low => Sys2Proof.Machine.execRes40 low s
  | .res80 low => Sys2Proof.Machine.execRes80 low s
  | .sof0 => Sys2Proof.Machine.execSof0 s
  | .sof1 => Sys2Proof.Machine.execSof1 s
  | .sof2 => Sys2Proof.Machine.execSof2 s
  | .sof3 => Sys2Proof.Machine.execSof3 s
  | .dht => Sys2Proof.Machine.execDht s
  | .sof5 => Sys2Proof.Machine.execSof5 s
  | .sof6 => Sys2Proof.Machine.execSof6 s
  | .sof7 => Sys2Proof.Machine.execSof7 s
  | .jpg => Sys2Proof.Machine.execJpg s
  | .sof9 => Sys2Proof.Machine.execSof9 s
  | .sof10 => Sys2Proof.Machine.execSof10 s
  | .sof11 => Sys2Proof.Machine.execSof11 s
  | .dac => Sys2Proof.Machine.execDac s
  | .sof13 => Sys2Proof.Machine.execSof13 s
  | .sof14 => Sys2Proof.Machine.execSof14 s
  | .sof15 => Sys2Proof.Machine.execSof15 s
  | .rst m => Sys2Proof.Machine.execRst m s
  | .soi => Sys2Proof.Machine.execSoi s
  | .eoi => Sys2Proof.Machine.execEoi s
  | .sos => Sys2Proof.Machine.execSos s
  | .dqt => Sys2Proof.Machine.execDqt s
  | .dnl => Sys2Proof.Machine.execDnl s
  | .dri => Sys2Proof.Machine.execDri s
  | .dhp => Sys2Proof.Machine.execDhp s
  | .exp => Sys2Proof.Machine.execExp s
  | .app0 => Sys2Proof.Machine.execApp0 s
  | .app1 => Sys2Proof.Machine.execApp1 s
  | .app2 low => Sys2Proof.Machine.execApp2 low s
  | .app4 low => Sys2Proof.Machine.execApp4 low s
  | .app8 low => Sys2Proof.Machine.execApp8 low s
  | .app12 low => Sys2Proof.Machine.execApp12 low s
  | .app14 => Sys2Proof.Machine.execApp14 s
  | .app15 => Sys2Proof.Machine.execApp15 s
  | .jpg0 low => Sys2Proof.Machine.execJpg0 low s
  | .jpg8 low => Sys2Proof.Machine.execJpg8 low s
  | .jpg12 low => Sys2Proof.Machine.execJpg12 low s
  | .com => Sys2Proof.Machine.execCom s
  | .hufSeq d x => Sys2Proof.Machine.execHufSeq d x s
  | .hufDcFirst d => Sys2Proof.Machine.execHufDcFirst d s
  | .hufDcRefine d => Sys2Proof.Machine.execHufDcRefine d s
  | .hufAcFirst d => Sys2Proof.Machine.execHufAcFirst d s
  | .hufAcRefine d => Sys2Proof.Machine.execHufAcRefine d s
  | .hufLossless d => Sys2Proof.Machine.execHufLossless d s
  | .ariSeq d => Sys2Proof.Machine.execAriSeq d s
  | .ariDcFirst d => Sys2Proof.Machine.execAriDcFirst d s
  | .ariDcRefine d => Sys2Proof.Machine.execAriDcRefine d s
  | .ariAcFirst d => Sys2Proof.Machine.execAriAcFirst d s
  | .ariAcRefine d => Sys2Proof.Machine.execAriAcRefine d s
  | .ariLossless d => Sys2Proof.Machine.execAriLossless d s
  | .dcCategory t => Sys2Proof.Machine.execDcCategory t s
  | .losslessDiff t => Sys2Proof.Machine.execLosslessDiff t s
  | .eob => Sys2Proof.Machine.execEob s
  | .zrl => Sys2Proof.Machine.execZrl s
  | .eobn r => Sys2Proof.Machine.execEobn r s
  | .acCoeff r sz => Sys2Proof.Machine.execAcCoeff r sz s
  | .decode irq => Sys2Proof.Machine.execDecode irq s
  | .encode irq => Sys2Proof.Machine.execEncode irq s

end Sys2Proof.Machine
end

