-- ==== Sys2Proof/Machine/Encoder.lean ====
section
/-! DEFINITION. The encoder mirror (R490-R514): the canonical Huffman builder, the four stages of an encode, and the stream writer. -/

namespace Sys2Proof.Machine

open Sys2Proof.Config

/-! ### The canonical Huffman builder (R500-R503) -/

/-- A node of the tree under construction (R500): its frequency, the smallest symbol among its leaves, and each leaf with its
depth below the node. -/
structure TreeNode where
  freq   : Nat
  idx    : Nat
  leaves : List (Nat × Nat)
  deriving DecidableEq, Repr

/-- The key order: frequency first, then idx (R500, R501). -/
def TreeNode.before (a b : TreeNode) : Bool := decide (a.freq < b.freq) || (a.freq == b.freq && decide (a.idx < b.idx))

/-- A node put into the pending list, smallest key first. -/
def insertNode (n : TreeNode) : List TreeNode → List TreeNode
  | [] => [n]
  | x :: t => if n.before x then n :: x :: t else x :: insertNode n t

/-- Two nodes under a new one (R500): every leaf is one deeper. -/
def TreeNode.join (a b : TreeNode) : TreeNode :=
  ⟨a.freq + b.freq, min a.idx b.idx, (a.leaves ++ b.leaves).map fun l => (l.1, l.2 + 1)⟩

/-- The two smallest nodes joined until one is left (R500), at most `fuel` times. -/
def mergeNodes : Nat → List TreeNode → List (Nat × Nat)
  | _, [] => []
  | _, [n] => n.leaves
  | 0, n :: _ => n.leaves
  | fuel + 1, a :: b :: rest => mergeNodes fuel (insertNode (a.join b) rest)

/-- The pending leaves of the used symbols (R500). -/
def leafNodes (freq : List Nat) : List TreeNode :=
  freq.zipIdx.foldl (fun acc f => if f.1 = 0 then acc else insertNode ⟨f.1, f.2, [(f.2, 0)]⟩ acc) []

/-- The tree's code lengths, one per symbol, 0 for an unused one (R500); a single used symbol has length 1 (conflict C6). -/
def treeLengths (freq : List Nat) : List Nat :=
  let nodes := leafNodes freq
  let depths := match nodes with
    | [n] => [(n.idx, 1)]
    | _ => mergeNodes nodes.length nodes
  (List.range freq.length).map fun s => ((depths.find? fun d => d.1 == s).map (·.2)).getD 0

/-- `sum over used s of 2^(maxlen - len[s])` (R502). -/
def kraftSum (maxlen : Nat) (len : List Nat) : Nat :=
  (len.map fun l => if l = 0 then 0 else 2 ^ (maxlen - l)).sum

/-- The best of the symbols that satisfy `ok`, by a strict order (R502). -/
def bestSymbol (n : Nat) (ok : Nat → Bool) (better : Nat → Nat → Bool) : Option Nat :=
  (List.range n).foldl (fun acc s =>
    if ok s then
      match acc with
      | none => some s
      | some t => if better s t then some s else some t
    else acc) none

/-- While the code is over budget, lengthen (R502): the largest length below the maximum, ties to the smallest frequency, then
the largest symbol. -/
def lengthen (freq : List Nat) (maxlen : Nat) : Nat → List Nat → List Nat
  | 0, len => len
  | fuel + 1, len =>
    if kraftSum maxlen len ≤ 2 ^ maxlen then len
    else
      let l := fun s => lget len s 0
      let f := fun s => lget freq s 0
      match bestSymbol len.length (fun s => decide (l s ≠ 0) && decide (l s < maxlen))
          (fun s t => decide (l t < l s) || (l s == l t && (decide (f s < f t) || (f s == f t && decide (t < s))))) with
      | none => len
      | some s => lengthen freq maxlen fuel (len.set s (l s + 1))

/-- While the code is under budget, shorten (R502): the largest length of at least 2 whose step fits, ties to the largest
frequency, then the smallest symbol. -/
def shorten (freq : List Nat) (maxlen : Nat) : Nat → List Nat → List Nat
  | 0, len => len
  | fuel + 1, len =>
    let k := kraftSum maxlen len
    if 2 ^ maxlen ≤ k then len
    else
      let l := fun s => lget len s 0
      let f := fun s => lget freq s 0
      match bestSymbol len.length (fun s => decide (2 ≤ l s) && decide (2 ^ (maxlen - l s) ≤ 2 ^ maxlen - k))
          (fun s t => decide (l t < l s) || (l s == l t && (decide (f t < f s) || (f s == f t && decide (s < t))))) with
      | none => len
      | some s => shorten freq maxlen fuel (len.set s (l s - 1))

/-- The reference HUFF_LIMIT (R502). -/
def huffLimitRef (len freq : List Nat) (maxlen : Nat) : List Nat :=
  let bound := len.length * maxlen
  shorten freq maxlen bound (lengthen freq maxlen bound (len.map fun l => min l maxlen))

/-- What R502 requires of any HUFF_LIMIT: the same symbols used, lengths at most `maxlen`, Kraft equality. -/
def limitOk (old new : List Nat) (maxlen : Nat) : Bool :=
  new.length == old.length && (old.zip new).all (fun p => (p.1 == 0) == (p.2 == 0)) &&
  new.all (fun l => decide (l ≤ maxlen)) && kraftSum maxlen new == 2 ^ maxlen

/-- The parameter HUFF_LIMIT (R11, D28); another value must have the properties of R502 (log 29). -/
def huffLimit (p : Params) (len freq : List Nat) (maxlen : Nat) : List Nat :=
  match p.huffLimit with
  | .reference => huffLimitRef len freq maxlen
  | .other n =>
    if limitOk len (huffLimitOther n len freq maxlen) maxlen then huffLimitOther n len freq maxlen
    else huffLimitRef len freq maxlen

/-- BuildLengths(freq, maxlen) (R500): none where no symbol is used. -/
def buildLengths (p : Params) (freq : List Nat) (maxlen : Nat) : Option (List Nat) :=
  if freq.all (· == 0) then none
  else
    let len := treeLengths freq
    some (if len.any (fun l => decide (maxlen < l)) then huffLimit p len freq maxlen else len)

/-- BITS of a length list (R503): the number of symbols of each length 1 to 16. -/
def bitsOf (len : List Nat) : List Nat := (List.range 16).map fun l => (len.filter (· == l + 1)).length

/-- HUFFVAL of a length list (R503): the used symbols by length, then by value. -/
def huffvalOf (len : List Nat) : List Byte :=
  (List.range 16).flatMap fun l =>
    ((List.range len.length).filter fun s => lget len s 0 == l + 1).map (BitVec.ofNat 8)

/-- The codeword of each symbol, by R290 applied to (BITS, HUFFVAL) (R503). -/
def assignEncCodes (len : List Nat) : Option (Vector Nat 256 × Vector Nat 256) :=
  (buildTrie (bitsOf len) (huffvalOf len)).map fun codes =>
    let look (f : Code → Nat) : Vector Nat 256 :=
      codes.foldl (fun v c => vset v c.sym.toNat (f c)) (Vector.replicate 256 0)
    (look (·.code), look (·.len))

/-! ### Reading and converting the image (R490-R495) -/

/-- A little-endian 16-bit value of the input (R105, R491). -/
def readU16le (off : Nat) : Act Nat := do
  let lo ← memRead1 off
  let hi ← memRead1 (off + 1)
  pure (lo.toNat + 256 * hi.toNat)

/-- `n` pixels from offset `off` on: R, G, B of each; A is not read (R491). -/
def readPixels : Nat → Nat → Act (List (Nat × Nat × Nat))
  | 0, _ => pure []
  | n + 1, off => do
    let r ← readU16le off
    let g ← readU16le (off + 2)
    let b ← readU16le (off + 4)
    let rest ← readPixels n (off + 8)
    pure ((r, g, b) :: rest)

/-- A channel reduced to 8 bits (R492). -/
def to8 (c : Nat) : Nat := (c * 255 * 2 + 65535) / (2 * 65535)

/-- The reference colour conversion (R492), the exact inverse of the YCBCR row of R453. -/
def colourRef (r16 g16 b16 : Nat) : Rat × Rat × Rat :=
  let r : Rat := to8 r16
  let g : Rat := to8 g16
  let b : Rat := to8 b16
  let kr : Rat := 299 / 1000
  let kb : Rat := 114 / 1000
  let y := kr * r + (587 / 1000) * g + kb * b
  (y, (b - y) / (2 * (1 - kb)) + 128, (r - y) / (2 * (1 - kr)) + 128)

/-- The colour conversion of the parameter FDCT_Q (R492, D30). -/
def colour (p : Params) (px : Nat × Nat × Nat) : Rat × Rat × Rat :=
  match p.fdctQ with
  | .reference => colourRef px.1 px.2.1 px.2.2
  | .other n => colourOther n px.1 px.2.1 px.2.2

/-- A plane of `w x h` values as `nw x nh`: the last column and the last row are repeated (R494). -/
def padPlane (w h nw nh : Nat) (vals : List Rat) : List Rat :=
  (List.range nh).flatMap fun y => (List.range nw).map fun x => lget vals (min y (h - 1) * w + min x (w - 1)) 0

/-- 2x2 averaging with edge duplication (R493): `ceil(w/2) x ceil(h/2)` values. -/
def subsample (w h : Nat) (vals : List Rat) : List Rat :=
  let at' (x y : Nat) : Rat := lget vals (min y (h - 1) * w + min x (w - 1)) 0
  (List.range (ceilDiv h 2)).flatMap fun j => (List.range (ceilDiv w 2)).map fun i =>
    (at' (2 * i) (2 * j) + at' (2 * i + 1) (2 * j) + at' (2 * i) (2 * j + 1) + at' (2 * i + 1) (2 * j + 1)) / 4

/-- A natural-order table in zigzag order (R495). -/
def toZigzag (natural : List Nat) : Vector Nat 64 := Vector.ofFn fun k => lget natural (naturalOf k.val) 1

/-- A table entry limited to 1..255 (R495). -/
def quantLimit (v : Nat) : Nat := max 1 (min v 255)

/-- Entry `k` of an unknown QUANT_HEUR at a score (R495, log 29): the smallest of its limited entries at the scores up to it, so that
no entry is larger for a higher score. -/
def quantEntry (n score : Nat) (chroma : Bool) (k : Nat) : Nat :=
  (List.range (score + 1)).foldl (fun m t => min m (quantLimit (quantEntryOther n t chroma k))) 255

/-- The parameter QUANT_HEUR (R11, R495, D29): the reference tables, or tables of a score of the image. -/
def quantHeur (p : Params) (w h : Nat) (pixels : List (Nat × Nat × Nat)) : Vector Nat 64 × Vector Nat 64 :=
  match p.quantHeur with
  | .reference => (toZigzag refQy, toZigzag refQc)
  | .other n =>
    let score := quantScoreOther n w h pixels
    (Vector.ofFn fun k => quantEntry n score false k.val, Vector.ofFn fun k => quantEntry n score true k.val)

/-- First stage (R490-R495): the size checks, the pixels, the colour planes padded to whole blocks, the tables. The one allocation of
kind `encoder` stands for all that an encode keeps, its blocks, frequencies and code tables too (log 28). That an 8*W*H from 2^32 on is the
ImageDataError of R490, and not the ImageTooLarge of R107, is the model's choice (log 6). -/
def encReadAct : Act Unit := do
  let s ← get
  let w := s.regs.imgWidth.toNat % 65536
  let h := s.regs.imgHeight.toNat % 65536
  if w = 0 ∨ h = 0 then raise .formatError
  else if s.inLen < 8 * w * h then raise .imageDataError
  else
    let _ ← alloc (.encoder w h)
    let pixels ← readPixels (w * h) 0
    let ycc := pixels.map (colour s.params)
    let cw := ceilDiv w 2
    let ch := ceilDiv h 2
    let chroma (f : Rat × Rat × Rat → Rat) : List Rat :=
      padPlane cw ch (8 * ceilDiv w 16) (8 * ceilDiv h 16) (subsample w h (ycc.map f))
    let q := quantHeur s.params w h pixels
    update fun s => { s with
      enc := { s.enc with
        w := w, h := h
        yPlane := padPlane w h (8 * ceilDiv w 8) (8 * ceilDiv h 8) (ycc.map (·.1))
        cb := chroma (·.2.1), cr := chroma (·.2.2)
        qy := q.1, qc := q.2 }
      sq := { s.sq with phase := .encQuant } }

/-! ### Quantization (R496) -/

/-- The 64 samples of block `(bx, by)` of a padded plane of `bw` blocks per row. -/
def blockSamples (plane : List Rat) (bw bx byy : Nat) : List Rat :=
  (List.range 64).map fun i => lget plane ((8 * byy + i / 8) * (8 * bw) + 8 * bx + i % 8) 0

/-- The quantized blocks of a padded plane in raster order (R496). -/
def quantPlane (p : Params) (q : Vector Nat 64) (plane : List Rat) (bw bh : Nat) : List Block :=
  (List.range bh).flatMap fun j => (List.range bw).map fun i => fdctQ p (blockSamples plane bw i j) q

/-- Second stage (R496): the quantized blocks of the three components. -/
def encQuantAct : Act Unit :=
  update fun s =>
    let e := s.enc
    let cw := ceilDiv e.w 16
    let ch := ceilDiv e.h 16
    { s with
      enc := { e with
        yBlocks := quantPlane s.params e.qy e.yPlane (ceilDiv e.w 8) (ceilDiv e.h 8)
        cbBlocks := quantPlane s.params e.qc e.cb cw ch
        crBlocks := quantPlane s.params e.qc e.cr cw ch }
      sq := { s.sq with phase := .encCode } }

/-! ### Symbols (R497, R498) -/

/-- A symbol with its extra bits: the table it belongs to (0 DC-Y, 1 AC-Y, 2 DC-C, 3 AC-C), the symbol, `size` bits of `extra`. -/
structure Token where
  table : Nat
  sym   : Nat
  size  : Nat
  extra : Nat
  deriving DecidableEq, Repr

/-- The number of bits of `m` (R497). -/
def bitLength (m : Nat) : Nat := if m = 0 then 0 else Nat.log2 m + 1

/-- The extra bits of a value of category `t` (R497, R155). -/
def extraBits (v : Int) (t : Nat) : Nat := if v ≥ 0 then v.toNat else (v + 2 ^ t - 1).toNat

/-- The AC symbols of a block from the coefficients in zigzag order, `r` zeros pending (R497). -/
def acTokens (table : Nat) : Nat → List Int → List Token
  | r, [] => if r > 0 then [⟨table, 0x00, 0, 0⟩] else []
  | r, v :: rest =>
    if v = 0 then acTokens table (r + 1) rest
    else
      let t := bitLength v.natAbs
      List.replicate (r / 16) ⟨table, 0xF0, 0, 0⟩ ++ ⟨table, r % 16 * 16 + t, t, extraBits v t⟩ :: acTokens table 0 rest

/-- The symbols of one block, given the previous DC value (R497). -/
def blockTokens (dcTable acTable : Nat) (pred : Int) (b : Block) : List Token :=
  let dc := vget b 0 0
  let t := bitLength (dc - pred).natAbs
  ⟨dcTable, t, t, extraBits (dc - pred) t⟩ :: acTokens acTable 0 (b.toList.drop 1)

/-- The symbols of the Y scan, blocks in raster order (R497, R512). -/
def lumaTokens : Int → List Block → List Token
  | _, [] => []
  | pred, b :: rest => blockTokens 0 1 pred b ++ lumaTokens (vget b 0 0) rest

/-- The symbols of the chroma scan: per MCU one Cb block and one Cr block (R497, R512). -/
def chromaTokens : Int → Int → List (Block × Block) → List Token
  | _, _, [] => []
  | pb, pr, (b, r) :: rest =>
    blockTokens 2 3 pb b ++ blockTokens 2 3 pr r ++ chromaTokens (vget b 0 0) (vget r 0 0) rest

/-- The symbols of the first scan. -/
def Enc.yTokens (e : Enc) : List Token := lumaTokens 0 e.yBlocks

/-- The symbols of the second scan. -/
def Enc.cTokens (e : Enc) : List Token := chromaTokens 0 0 (e.cbBlocks.zip e.crBlocks)

/-- The DC value of the last block of a component: its predictor after the scan (R497). -/
def lastDc (blocks : List Block) : Int := (blocks.getLast?.map fun b => vget b 0 0).getD 0

/-- The frequencies of the four tables (R498). -/
def countTokens (ts : List Token) : Vector (Vector Nat 256) 4 :=
  ts.foldl (fun fr t =>
    let row := vget fr t.table (Vector.replicate 256 0)
    vset fr t.table (vset row t.sym (vget row t.sym 0 + 1))) (Vector.replicate 4 (Vector.replicate 256 0))

/-- The code of one table from its frequencies, maximum length 16 (R498, R503). -/
def codeTable (i : Nat) : Act Unit := do
  let s ← get
  let freq := (vget s.enc.freq i (Vector.replicate 256 0)).toList
  let len ← orFormatError (buildLengths s.params freq 16)
  let codes ← orFormatError (assignEncCodes len)
  update fun s => { s with enc := { s.enc with
    ehufco := vset s.enc.ehufco i codes.1, ehufsi := vset s.enc.ehufsi i codes.2 } }

/-- Third stage (R497, R498, R503): the symbols counted, the four code tables; nothing is allocated for them (log 28). -/
def encCodeAct : Act Unit := do
  update fun s => { s with enc := { s.enc with
    freq := countTokens (s.enc.yTokens ++ s.enc.cTokens)
    pred := #v[lastDc s.enc.yBlocks, lastDc s.enc.cbBlocks, lastDc s.enc.crBlocks] } }
  forComps codeTable [0, 1, 2, 3]
  update fun s => { s with sq := { s.sq with phase := .encWrite } }

/-! ### Stream writing (R510-R513) -/

/-- One byte at OPOS (R513): OutOfMemory where it does not fit. -/
def putByte (b : Byte) : Act Unit := do
  let s ← get
  memWrite1 s.enc.opos b
  update fun s => { s with enc := { s.enc with opos := s.enc.opos + 1 } }

/-- Bytes at OPOS. -/
def putBytes : List Byte → Act Unit
  | [] => pure ()
  | b :: bs => do
    putByte b
    putBytes bs

/-- A byte of entropy data, 0xFF followed by 0x00 (R510). -/
def putEntropyByte (b : Byte) : Act Unit := do
  putByte b
  if b = 0xFF then putByte 0x00 else pure ()

/-- Bits, first one most significant, as a number. -/
def bitsValue (bits : List Bool) : Nat := bits.foldl (fun v b => 2 * v + bitVal b) 0

/-- One bit appended to OBUF; a completed byte is written (R510). -/
def putBit (b : Bool) : Act Unit := do
  let s ← get
  let buf := s.enc.obuf ++ [b]
  if buf.length < 8 then update fun s => { s with enc := { s.enc with obuf := buf } }
  else
    update fun s => { s with enc := { s.enc with obuf := [] } }
    putEntropyByte (BitVec.ofNat 8 (bitsValue buf))

/-- The low `n` bits of `v`, most significant first (R510). -/
def putBits (v : Nat) : Nat → Act Unit
  | 0 => pure ()
  | n + 1 => do
    putBit (v.testBit n)
    putBits v n

/-- The symbols of a scan: codeword, then extra bits (R497, R510). -/
def putTokens : List Token → Act Unit
  | [] => pure ()
  | t :: ts => do
    let s ← get
    let row (v : Vector (Vector Nat 256) 4) : Nat := vget (vget v t.table (Vector.replicate 256 0)) t.sym 0
    putBits (row s.enc.ehufco) (row s.enc.ehufsi)
    putBits t.extra t.size
    putTokens ts

/-- Scan end (R511): the pending bits completed to a byte with 1 bits. -/
def padScan : Act Unit := do
  let s ← get
  if s.enc.obuf.isEmpty then pure () else putBits 0xFF (8 - s.enc.obuf.length)

/-- A 16-bit value, high byte first (R103). -/
def bytesBE16 (v : Nat) : List Byte := [BitVec.ofNat 8 (v / 256), BitVec.ofNat 8 v]

/-- APP0 (R512). -/
def jfifSegment : List Byte :=
  [0xFF, 0xE0, 0x00, 0x10, 0x4A, 0x46, 0x49, 0x46, 0x00] ++ [0x01, 0x01, 0x00, 0x00, 0x01, 0x00, 0x01, 0x00, 0x00]

/-- APP14 (R512). -/
def adobeSegment : List Byte :=
  [0xFF, 0xEE, 0x00, 0x0E, 0x41, 0x64, 0x6F, 0x62, 0x65] ++ [0x00, 0x64, 0x00, 0x00, 0x00, 0x00, 0x01]

/-- SOF0 (R512). -/
def sofSegment (w h : Nat) : List Byte :=
  [0xFF, 0xC0, 0x00, 0x11, 0x08] ++ bytesBE16 h ++ bytesBE16 w ++
  [0x03, 0x01, 0x22, 0x00, 0x02, 0x11, 0x01, 0x03, 0x11, 0x01]

/-- DQT (R512). -/
def dqtSegment (slot : Byte) (q : Vector Nat 64) : List Byte :=
  [0xFF, 0xDB, 0x00, 0x43, slot] ++ q.toList.map (BitVec.ofNat 8)

/-- DHT (R512). -/
def dhtSegment (tcth : Byte) (len : List Nat) : List Byte :=
  let vals := huffvalOf len
  [0xFF, 0xC4] ++ bytesBE16 (19 + vals.length) ++ [tcth] ++ (bitsOf len).map (BitVec.ofNat 8) ++ vals

/-- The lengths of a code table. -/
def Enc.lengths (e : Enc) (i : Nat) : List Nat := (vget e.ehufsi i (Vector.replicate 256 0)).toList

/-- Everything before the first scan (R512). -/
def Enc.header (e : Enc) : List Byte :=
  [0xFF, 0xD8] ++ jfifSegment ++ adobeSegment ++ sofSegment e.w e.h ++ dqtSegment 0x00 e.qy ++ dqtSegment 0x01 e.qc ++
  dhtSegment 0x00 (e.lengths 0) ++ dhtSegment 0x10 (e.lengths 1) ++
  dhtSegment 0x01 (e.lengths 2) ++ dhtSegment 0x11 (e.lengths 3)

/-- SOS(Y) (R512). -/
def sosLuma : List Byte := [0xFF, 0xDA, 0x00, 0x08, 0x01, 0x01, 0x00, 0x00, 0x3F, 0x00]

/-- The low length byte of SOS(Cb,Cr): as the table of R512 or the layout of R135 has it (log 33). -/
def sosChromaLength : SosLength → Byte
  | .table => 0x0C
  | .layout => 0x0A

/-- SOS(Cb,Cr) (R512). -/
def sosChroma (l : SosLength) : List Byte :=
  [0xFF, 0xDA, 0x00, sosChromaLength l, 0x02, 0x02, 0x11, 0x03, 0x11, 0x00, 0x3F, 0x00]

/-- Fourth stage (R510-R513): the stream; OUT_USED on success. -/
def encWriteAct : Act Unit := do
  update State.spill
  let s ← get
  putBytes s.enc.header
  putBytes sosLuma
  putTokens s.enc.yTokens
  padScan
  putBytes (sosChroma s.params.sosChroma)
  putTokens s.enc.cTokens
  padScan
  putBytes [0xFF, 0xD9]
  update fun s => { s with regs := { s.regs with outUsed := BitVec.ofNat 32 s.enc.opos } }
  update succeed

end Sys2Proof.Machine
end

