-- ==== Sys2Proof/Machine/Fetch.lean ====
section
/-! DEFINITION. What a step does around an instruction: which instruction the engine's phase reads next (R200, R202, R206, R216, R266),
the engine's steps that no instruction names (R206, R265, R440, R450, R490), and the script of host actions (log 1). -/

namespace Sys2Proof.Machine

/-- The marker that a recorded AUX entry stands for (R37, R213). -/
def AuxKind.instr : AuxKind → Instr
  | .dht => .dht
  | .dqt => .dqt
  | .dac => .dac
  | .dri => .dri
  | .dnl => .dnl
  | .exp => .exp

/-- A recorded marker is dispatched: MOFF is its offset, BP its length field (R202, R216). -/
def visit (off : Nat) : Act Unit :=
  update fun s => { s with rd := { s.rd with bp := off + 2 }, sq := { s.sq with moff := off } }

/-- SOI (R200): the first two bytes of the input. -/
def fetchSoi : Act (Option Instr) := do
  let w ← memRead2 0
  require (w == 0xFFD8)
  visit 0
  pure (some .soi)

/-- The next marker of the layout scan (R202). -/
def fetchMarker : Act (Option Instr) := do
  let m ← readMarker
  let i ← orFormatError (decodeInstr .marker [0xFF, m])
  pure (some i)

/-- The entropy walk (R206): RSTn is an instruction; any other marker only ends the entropy data. -/
def fetchEntropy : Act (Option Instr) := do
  let q ← walkInterval
  match decodeInstr .marker [0xFF, q] with
  | some (.rst m) => pure (some (.rst m))
  | _ => pure none

/-- The next AUX entry before offset `limit`, if one is left (R216): it is replayed once. Otherwise the frame or scan marker `last`
at `limit`. -/
def fetchReplay (limit : Nat) (last : Instr) : Act (Option Instr) := do
  let s ← get
  match s.arena.layout.aux[s.sq.auxPos]? with
  | some a =>
    if a.off < limit then
      visit a.off
      update fun s => { s with sq := { s.sq with auxPos := s.sq.auxPos + 1 } }
      pure (some a.marker.instr)
    else
      visit limit
      pure (some last)
  | none =>
    visit limit
    pure (some last)

/-- Before a frame: its table markers, then its SOF (R215, R216). -/
def fetchFrame : Act (Option Instr) := do
  let s ← get
  let f ← orUndefined .layout s.frameRec
  let i ← orUndefined .layout (decodeInstr .marker [0xFF, 0xC0 ||| f.n.setWidth 8])
  fetchReplay f.sofOff i

/-- Before a scan: its table markers, then its SOS (R215, R216). -/
def fetchScan : Act (Option Instr) := do
  let s ← get
  let sr ← orUndefined .layout s.scanRec
  fetchReplay sr.sosOff .sos

/-- Inside an interval: the next symbol of the block in progress, or the routine the selector names (R158, R264). -/
def fetchUnit : Act (Option Instr) := do
  let s ← get
  if s.sq.block.isSome then
    let i ← fetchSymbol
    pure (some i)
  else
    let i ← orUndefined .selector (decodeInstr .sel [s.sel])
    pure (some i)

/-- The instruction the engine reads next, by its phase; none in a phase whose step no instruction names. -/
def fetch : Act (Option Instr) := do
  let s ← get
  match s.sq.phase with
  | .soi => fetchSoi
  | .scan => fetchMarker
  | .entropy => fetchEntropy
  | .replaySof => fetchFrame
  | .replaySos => fetchScan
  | .unit => fetchUnit
  | .idle | .interval | .frameEnd | .output | .encRead | .encQuant | .encCode | .encWrite => pure none

/-- The engine's step where no instruction is read. -/
def quietAct : Phase → Act Unit
  | .entropy => endEntropy
  | .interval => intervalEntry
  | .frameEnd => frameEndAct
  | .output => outputAct
  | .encRead => encReadAct
  | .encQuant => encQuantAct
  | .encCode => encCodeAct
  | .encWrite => encWriteAct
  | .idle | .soi | .scan | .replaySof | .replaySos | .unit => pure ()

/-- After an instruction of the engine: where it completed a block or sample, the driver moves on (R266). -/
def settle : Host.Outcome State Fault Refusal → Host.Outcome State Fault Refusal
  | .next s => if s.sq.phase == .unit && s.sq.block.isNone then runAct advance s else .next s
  | .fault f => .fault f
  | .refused r => .refused r

/-- One step of the engine on the arena as it stands, `run` being the meaning of an instruction. -/
def engineRun (run : Instr → State → Host.Outcome State Fault Refusal) (s : State) : Host.Outcome State Fault Refusal :=
  match fetch s with
  | .error (.raise e t) => .next (failEntry e t)
  | .error (.fault f) => .fault f
  | .ok (none, t) => runAct (quietAct s.sq.phase) t
  | .ok (some i, t) => settle (run i t)

/-- One step of the engine: after a breach of the host discipline it finds the arena drawn (R111, R550). -/
def engineStep (run : Instr → State → Host.Outcome State Fault Refusal) (s : State) : Host.Outcome State Fault Refusal :=
  engineRun run s.refresh

/-- One step of the machine (log 1): the host action at the head of the script, or a step of the engine. A write that starts an
operation is the instruction it encodes (R582). -/
def stepOf (run : Instr → State → Host.Outcome State Fault Refusal) (s : State) : Host.Outcome State Fault Refusal :=
  match s.script with
  | [] => engineStep run s
  | .engine :: rest => engineStep run { s with script := rest }
  | act :: rest =>
    match s.startWord act with
    | some i => run i { s with script := rest }
    | none => .next (State.hostAct { s with script := rest } act)

end Sys2Proof.Machine
end

