-- ==== Sys2Proof/Machine/Load.lean ====
section
/-! DEFINITION. Placing one instruction of the opcode table where the machine fetches next (log 30). A marker is placed in the input
buffer; a selector is the value of FT, SS and AH in a scan of one component; a symbol is the only codeword of the table that a
block in progress reads; a command is a write to CTRL. -/

namespace Sys2Proof.Machine

/-- How many bytes of input a placed instruction gets: the rest are zeros. -/
def loadBytes : Nat := 64

/-- Bytes placed at the start of the input buffer, which is made long enough, and BP at the first of them. -/
def State.placeInput (s : State) (bytes : List Byte) : State :=
  { s with
    mem := s.mem.writeList (s.inAddr 0) (bytes ++ List.replicate (loadBytes - bytes.length) 0)
    regs := { s.regs with inLen := if s.inLen < loadBytes then BitVec.ofNat 32 loadBytes else s.regs.inLen }
    rd := { s.rd with bp := 0, segEnd := loadBytes, bitCnt := 0 }
    breach := Breach.init
    script := .engine :: s.script }

/-- The engine busy in a phase. -/
def State.busyIn (s : State) (p : Phase) : State :=
  { s with regs := { s.regs with status := statusWord true false false }, sq := { s.sq with phase := p, block := none } }

/-- A marker placed (R200, R202, R206): SOI is read at offset 0 before the scan, RSTm in entropy data where it is the one expected,
any other marker in the marker loop. -/
def State.loadMarker (s : State) (w : Nat) : State :=
  let bytes : List Byte := [BitVec.ofNat 8 (w / 256), BitVec.ofNat 8 w]
  let t := s.placeInput bytes
  match decodeInstr .marker bytes with
  | some .soi => t.busyIn .soi
  | some (.rst m) => { t.busyIn .entropy with
      sc := { t.sc with expectRst := m }, sq := { t.sq with phase := .entropy, ivstart := 0, block := none } }
  | _ => t.busyIn .scan

/-- A scan of one component with two blocks (or samples) to decode, whose only table has the one-bit codeword 0 for `sym`. -/
def State.placeScan (s : State) (sel sym : Byte) : State :=
  let t := (s.placeInput []).busyIn .unit
  let ft : BitVec 4 := sel.extractLsb' 4 4
  let table : Option HuffTable := some ⟨[⟨0, 1, sym⟩], 8⟩
  let fr : Frame := { t.fr with
    ft := ft, p := 8, x := 16, y := 8, nf := 1, hmax := 1, vmax := 1
    comp := Vector.replicate 4 ⟨1, 0, 0, 0, 1, 1⟩ }
  { t with
    fr := fr
    sc := { t.sc with
      ns := 1, sc := Vector.replicate 4 0
      ss := if sofProgressive ft then (if sel.getLsbD 1 then 1 else 0)
        else if sofLossless ft && !sofDifferential ft then 1 else 0
      se := if sofLossless ft || (sofProgressive ft && !sel.getLsbD 1) then 0 else 63
      ah := if sofProgressive ft && sel.getLsbD 0 then 1 else 0
      al := 0, mcud := [⟨0, 0, 0⟩], nunits := 2, unit := 0, entry := 0, intv := 0, ni := 1 }
    tb := { t.tb with ri := 0 }
    pr := fr.freshPred
    st := Stats.init
    qm := initDec
    arena := { t.arena with
      planes := vset t.arena.planes 0 (some (fr.newPlane 0))
      dcTables := vset t.arena.dcTables 0 table
      acTables := vset t.arena.acTables 0 table } }

/-- A block in progress whose next symbol is placed. -/
def State.placeSymbol (s : State) (sel sym : Byte) (b : OpenBlock) : State :=
  let t := s.placeScan sel sym
  { t with sq := { t.sq with block := some b } }

/-- An 8-bit instruction placed: a selector, or a symbol of the block in progress that reads it. -/
def State.loadByteRow (s : State) (w : Nat) : State :=
  let b : Byte := BitVec.ofNat 8 w
  match decodeByteRow b with
  | some i =>
    match i.space with
    | .sel => s.placeScan b 0
    | .symDc => s.placeSymbol 0x00 b ⟨.seq, ⟨0, 0, 0⟩, 0, .dc⟩
    | .symLossless => s.placeSymbol 0x30 b ⟨.lossless, ⟨0, 0, 0⟩, 0, .dc⟩
    | _ => s.placeSymbol 0x22 b ⟨.first, ⟨0, 0, 0⟩, 1, .ac⟩
  | none => s

/-- A command placed: the host's next access is its write to CTRL (R582). -/
def State.loadCommand (s : State) (w : Nat) : State :=
  { s with script := .write s.params.lpjBase 4 (BitVec.ofNat 32 w) :: s.script }

/-- The instruction of an opcode-table word placed so that the next step runs it. -/
def State.loadWord (s : State) (nbits w : Nat) : State :=
  match nbits with
  | 8 => s.loadByteRow w
  | 16 => s.loadMarker w
  | 32 => s.loadCommand w
  | _ => s

end Sys2Proof.Machine
end

