-- ==== Sys2Proof/Machine/Step.lean ====
section
/-! DEFINITION. One step of the machine, and the placing of one instruction. -/

namespace Sys2Proof.Machine

/-- One step: a host action or a step of the engine (log 1). -/
def step (s : State) : Host.Outcome State Fault Refusal := stepOf exec s

/-- The state with one opcode-table instruction placed where the next step fetches it (log 30). -/
def State.withFetchWord (s : State) (nbits w : Nat) : State := s.loadWord nbits w

end Sys2Proof.Machine
end

