-- ==== Sys2Proof/Safety.lean ====
section
/-! DEFINITION. The terms claims are stated in: a step that completes, a state without a recorded fault, the invariants of a run,
what lies at an input offset, a segment at BP, room in the arena, and the entropy procedures of the rules written on a block
held aside. -/

namespace Sys2Proof.Machine

/-- No fault Overflow is recorded (R548): the premise of every claim about values. -/
abbrev State.clean (s : State) : Prop := s.overflow = false

/-- The outcome is a next state: no model fault, no refusal. -/
def completes (o : Host.Outcome State Fault Refusal) : Prop := ∃ t, o = .next t

/-! ### Invariants -/

/-- The reserved bits of the host registers read 0, and ERRCODE.KIND is one of the codes of R540 (R32). -/
abbrev HostRegs.ok (r : HostRegs) : Prop :=
  r.ctrl &&& 0xFFFFFFF9 = 0 ∧ r.status &&& 0xFFFFFFF8 = 0 ∧ r.errcode.toNat ≤ 4 ∧
  r.imgWidth.toNat < 65536 ∧ r.imgHeight.toNat < 65536 ∧ r.info &&& 0xFFE0F800 = 0

/-- An engine step finds the arena as it stands: no breach of the host discipline makes it a draw (R111, log 15). -/
abbrev State.undisturbed (s : State) : Prop := s.breach.arena = false

/-- BUSY is set exactly while an operation is in progress, and DONE and ERR are 0 while it is (R35, R583, R587, R591). -/
abbrev State.lifecycle (s : State) : Prop :=
  (s.busy = true ↔ s.sq.phase ≠ .idle) ∧ (s.busy = true → s.done = false ∧ s.err = false)

/-- The invariant of every step: memory and the ranges of a breach in their canonical form, reserved register bits 0, BUSY in step
with the engine. -/
abbrev State.Inv (s : State) : Prop := s.mem.wf = true ∧ rangesFrom 0 s.breach.out = true ∧ s.regs.ok ∧ s.lifecycle

/-- The QM-coder registers between decisions (R342, R346): as InitDec leaves them, or within the bounds of R346. -/
abbrev Coder.ok (q : Coder) : Prop :=
  (q.a.toNat = 0 ∧ q.c.toNat = 0 ∧ q.ct = -16) ∨
  (1 ≤ q.a.toNat ∧ q.a.toNat ≤ 0x10000 ∧ 0 ≤ q.ct ∧ q.ct ≤ 7 ∧ q.c.toNat < q.a.toNat * 2 ^ q.ct.toNat)

/-- The lossless bins are listed in canonical form (R420): rising index, no bin that is 0. -/
def Stats.ok (st : Stats) : Prop := ∀ t, cellsFrom 0 (vget st.ll t []) = true

/-- The configuration registers of R34 that the host alone writes. -/
def HostRegs.config (r : HostRegs) : List Word :=
  [r.inBase, r.inLen, r.outBase, r.outLen, r.scrBase, r.scrLen, r.sizeLimit]

/-! ### The input -/

/-- The byte at an input offset. -/
def State.inByte (s : State) (off : Nat) : Byte := s.mem.read (s.inAddr off)

/-- The 16-bit value at an input offset, high byte first (R101). -/
def State.inWord (s : State) (off : Nat) : Nat := (s.inByte off).toNat * 256 + (s.inByte (off + 1)).toNat

/-- The `n` bytes from an input offset on. -/
def State.inBytes (s : State) (off n : Nat) : List Byte := (List.range n).map fun k => s.inByte (off + k)

/-- The `n` bytes from an input offset on lie in the input buffer, outside the arena, and their content is specified. -/
abbrev State.readable (s : State) (off n : Nat) : Prop :=
  off + n ≤ s.inLen ∧ ∀ k < n, s.mem.unknown (s.inAddr (off + k)) = false ∧ s.inArena (s.inAddr (off + k)) = false

/-- A whole segment of length `lx` stands at BP, its length field first (R131). -/
abbrev State.segmentAt (s : State) (lx : Nat) : Prop :=
  2 ≤ lx ∧ s.readable s.rd.bp lx ∧ s.inWord s.rd.bp = lx

/-- The payload of the segment at BP. -/
def State.payload (s : State) (lx : Nat) : List Byte := s.inBytes (s.rd.bp + 2) (lx - 2)

/-- Nothing changed but BP, which is past the segment (R202). -/
def State.past (s : State) (lx : Nat) : State := { s with rd := { s.rd with bp := s.rd.bp + lx } }

/-! ### The arena -/

/-- An allocation succeeds: it is not empty, not over the caller's limit, and fits (R106). -/
abbrev State.roomFor (s : State) (k : Config.AllocKind) : Prop :=
  0 < allocSize s.params k ∧ overLimit s (allocSize s.params k) = false ∧
  s.arena.used + allocSize s.params k ≤ s.regs.scrLen.toNat

/-- The state after an allocation. -/
def State.allocated (s : State) (k : Config.AllocKind) : State :=
  { s with arena := { s.arena with used := s.arena.used + allocSize s.params k } }

/-- The state after a layout record was appended. -/
def State.recorded (s : State) (f : Layout → Layout) : State :=
  { s with arena := { s.arena with used := s.arena.used + allocSize s.params .layoutRecord, layout := f s.arena.layout } }

/-! ### Blocks and samples -/

/-- A block stored in its plane. -/
def State.withBlock (s : State) (a : Address) (b : Block) : State := s.mapPlane a.c fun p => p.setBlock a.x a.y b

/-- A sample stored in its plane. -/
def State.withSample (s : State) (a : Address) (v : BitVec 16) : State := s.mapPlane a.c fun p => p.setSample a.x a.y v

/-- The block or sample an entropy instruction works on: that of the block in progress for a symbol, that of the descriptor entry for
a routine. -/
def targetOf (i : Instr) (s : State) : Option Address :=
  match i with
  | .dcCategory _ | .losslessDiff _ | .eob | .zrl | .eobn _ | .acCoeff _ _ => s.sq.block.map (·.addr)
  | _ => (s.sc.mcud[s.sc.entry]?).map s.addressOf

/-- `px` is the prediction of the sample at `a` (R405, R406). -/
def State.predicts (s : State) (a : Address) (px : Int) : Prop :=
  let y0 := s.firstRow a.c
  if s.fr.ft.getLsbD 2 then px = 0
  else if a.y = y0 ∧ a.x = 0 then px = 2 ^ (s.fr.p.toNat - s.sc.al.toNat - 1)
  else if a.y = y0 then ∃ ra, s.sample? { a with x := a.x - 1 } = some ra ∧ px = ra.toNat
  else if a.x = 0 then ∃ rb, s.sample? { a with y := a.y - 1 } = some rb ∧ px = rb.toNat
  else ∃ ra rb rc : BitVec 16, s.sample? { a with x := a.x - 1 } = some ra ∧ s.sample? { a with y := a.y - 1 } = some rb ∧
    s.sample? { a with x := a.x - 1, y := a.y - 1 } = some rc ∧
    let ia : Int := ra.toNat
    let ib : Int := rb.toNat
    let ic : Int := rc.toNat
    px = if s.sc.ss = 1 then ia else if s.sc.ss = 2 then ib else if s.sc.ss = 3 then ic
      else if s.sc.ss = 4 then ia + ib - ic else if s.sc.ss = 5 then ia + (ib - ic) / 2
      else if s.sc.ss = 6 then ib + (ia - ic) / 2 else if s.sc.ss = 7 then (ia + ib) / 2 else 0

/-! ### Markers -/

/-- The thirteen frame markers with their codes n (R133). -/
def sofMarkers : List (BitVec 4 × Instr) :=
  [(0, .sof0), (1, .sof1), (2, .sof2), (3, .sof3), (5, .sof5), (6, .sof6), (7, .sof7), (9, .sof9), (10, .sof10),
    (11, .sof11), (13, .sof13), (14, .sof14), (15, .sof15)]

/-- The six table markers (R213). -/
def auxMarkers : List AuxKind := [.dht, .dqt, .dac, .dri, .dnl, .exp]

/-- The segment at BP carries an identifier, no frame has been met, and its slot is free (R211). -/
abbrev State.appHit (s : State) (lx : Nat) (ident : List Byte) (slot : Option Nat) : Prop :=
  (s.payload lx).take ident.length = ident ∧ s.arena.layout.frames = [] ∧ slot = none

/-- The application markers with an identifier: its bytes (R143) and its slot (R37). -/
def appMarkers (l : Layout) : List (Instr × List Byte × Option Nat) :=
  [(.app0, jfifIdent, l.jfifOff), (.app1, exifIdent, l.exifOff), (.app14, adobeIdent, l.adobeOff)]

/-- The instruction is a reserved marker (R132, R159). -/
def isReserved : Instr → Bool
  | .tem | .res02 _ | .res04 _ | .res08 _ | .res10 _ | .res20 _ | .res40 _ | .res80 _ => true
  | .jpg | .jpg0 _ | .jpg8 _ | .jpg12 _ => true
  | _ => false

/-- The instruction is a segment that is always skipped (R212). -/
def isSkipped : Instr → Bool
  | .app2 _ | .app4 _ | .app8 _ | .app12 _ | .app15 | .com => true
  | _ => false

/-- A symbol or a routine that reads Huffman codes (R300-R316, R400). -/
def readsHuffman : Instr → Bool
  | .dcCategory _ | .losslessDiff _ | .eob | .zrl | .eobn _ | .acCoeff _ _ => true
  | .hufSeq _ _ | .hufDcFirst _ | .hufDcRefine _ | .hufAcFirst _ | .hufAcRefine _ | .hufLossless _ => true
  | _ => false

/-- A routine that reads arithmetic decisions (R350-R360, R420). -/
def readsDecisions : Instr → Bool
  | .ariSeq _ | .ariDcFirst _ | .ariDcRefine _ | .ariAcFirst _ | .ariAcRefine _ | .ariLossless _ => true
  | _ => false

/-- One table definition of a DQT payload (R137): 8-bit or 16-bit entries, the slot, the entries. -/
structure QuantDef where
  wide    : Bool
  slot    : BitVec 2
  entries : QTable
  deriving DecidableEq, Repr

/-- The bytes of a DQT definition (R137). -/
def QuantDef.bytes (d : QuantDef) : List Byte :=
  ((if d.wide then 0x10#8 else 0#8) ||| d.slot.setWidth 8) ::
    d.entries.toList.flatMap fun (e : BitVec 16) => if d.wide then [(e >>> 8).setWidth 8, e.setWidth 8] else [e.setWidth 8]

/-- 8-bit entries fit a byte. -/
def QuantDef.ok (d : QuantDef) : Bool := d.wide || d.entries.toList.all fun (e : BitVec 16) => decide (e.toNat < 256)

/-- The quantization tables after a list of definitions, in order (R221). -/
def Tables.define (t : Tables) (d : QuantDef) : Tables := { t with qt := vset t.qt d.slot.toNat (some d.entries) }

/-- One table definition of a DHT payload (R136): the class, the slot, the counts, the symbols. -/
structure HuffDef where
  ac     : Bool
  slot   : BitVec 2
  counts : Vector Byte 16
  vals   : List Byte
  deriving DecidableEq, Repr

/-- The bytes of a DHT definition (R136). -/
def HuffDef.bytes (d : HuffDef) : List Byte :=
  (((if d.ac then 0x10#8 else 0#8) ||| d.slot.setWidth 8) :: d.counts.toList) ++ d.vals

/-- The counts are those of the symbols, at most 256 of them (R136, R220). -/
def HuffDef.ok (d : HuffDef) : Bool :=
  (d.counts.toList.map (·.toNat)).sum == d.vals.length && decide (d.vals.length ≤ 256)

/-- The arena after one definition (R220, R216): the new trie is allocated, the superseded one released; none where the code is
overfull or the trie does not fit. -/
def State.defineHuff (s : State) (d : HuffDef) : Option State :=
  let size := allocSize s.params (.trie d.vals.length)
  match buildTrie (d.counts.toList.map (·.toNat)) d.vals with
  | none => none
  | some codes =>
    if size = 0 ∨ overLimit s size = true ∨ s.arena.used + size > s.regs.scrLen.toNat then none
    else
      let cls := if d.ac then 1 else 0
      let old := ((s.arena.slot cls d.slot.toNat).map (·.bytes)).getD 0
      some { s with arena := { (s.arena.setSlot cls d.slot.toNat ⟨codes, size⟩) with used := s.arena.used + size - old } }

/-- The arena after the definitions of a payload, in order (R220). -/
def State.defineHuffs : List HuffDef → State → Option State
  | [], s => some s
  | d :: ds, s => (s.defineHuff d).bind (State.defineHuffs ds)

/-- The conditioning bytes after one pair of a DAC payload, where it is valid (R222). -/
def Tables.condition (t : Tables) (p : Byte × Byte) : Option Tables :=
  let tb := p.1.toNat % 16
  if p.1.toNat / 16 ≤ 1 ∧ tb ≤ 3 then
    if p.1.toNat / 16 = 0 then
      if p.2.toNat % 16 < p.2.toNat / 16 then some { t with dacDc := vset t.dacDc tb p.2 } else none
    else if 1 ≤ p.2.toNat ∧ p.2.toNat ≤ 63 then some { t with dacAc := vset t.dacAc tb p.2 }
    else none
  else none

/-- The conditioning bytes after the pairs of a payload, in order; none where one is invalid (R222). -/
def Tables.conditions (t : Tables) : List (Byte × Byte) → Option Tables
  | [] => some t
  | p :: ps => (t.condition p).bind fun u => u.conditions ps

/-! ### The entropy procedures on a block held aside -/

namespace Rule

/-- DecodeDC (R301) up to the value `val << AL`. -/
def decodeDc (c : Nat) : Act Int := do
  let s ← get
  let t ← decodeHuff (vget s.arena.dcTables (s.fr.compAt c).td.toNat none)
  if t.toNat ≥ 16 then raise .formatError
  else
    let v ← receive t.toNat
    let s ← get
    let diff := extend v t.toNat
    let val ← checked32 (if s.fr.isDifferential then diff else vget s.pr.pred c 0 + diff)
    if s.fr.isDifferential then pure () else
      update fun s => { s with pr := { s.pr with pred := vset s.pr.pred c val } }
    checked32 (val * 2 ^ s.sc.al.toNat)

/-- DecodeACSeq (R302) from position `k` on. -/
def acSeq (table : Option HuffTable) : Nat → Nat → Block → Act Block
  | 0, _, blk => pure blk
  | fuel + 1, k, blk =>
    if k ≤ 63 then do
      let rs ← decodeHuff table
      let r := rs.toNat / 16
      let s := rs.toNat % 16
      if s = 0 then
        if r = 0 then pure blk
        else if r = 15 then
          if k + 16 > 64 then raise .formatError else acSeq table fuel (k + 16) blk
        else raise .formatError
      else if k + r > 63 then raise .formatError
      else do
        let v ← receive s
        acSeq table fuel (k + r + 1) (vset blk (k + r) (extend v s))
    else pure blk

/-- HUF_SEQ (R300) on the block at `a`. -/
def hufSeq (a : Address) : Act Unit := do
  let blk ← getBlock a
  let v ← decodeDc a.c
  let s ← get
  let blk ← acSeq (vget s.arena.acTables (s.fr.compAt a.c).ta.toNat none) 64 1 (vset blk 0 v)
  setBlock a blk
  closeBlock

/-- HUF_DC_FIRST (R310) on the block at `a`. -/
def hufDcFirst (a : Address) : Act Unit := do
  let blk ← getBlock a
  let v ← decodeDc a.c
  setBlock a (vset blk 0 v)
  closeBlock

/-- The band of a first scan (R314) from position `k` on. -/
def acFirst (table : Option HuffTable) (se al : Nat) : Nat → Nat → Block → Act Block
  | 0, _, blk => pure blk
  | fuel + 1, k, blk =>
    if k ≤ se then do
      let rs ← decodeHuff table
      let r := rs.toNat / 16
      let s := rs.toNat % 16
      if s = 0 then
        if r < 15 then do
          let n ← receive r
          setEobrun (2 ^ r + n - 1)
          pure blk
        else if k + 16 > se + 1 then raise .formatError
        else acFirst table se al fuel (k + 16) blk
      else if k + r > se then raise .formatError
      else do
        let v ← receive s
        let w ← checked32 (extend v s * 2 ^ al)
        acFirst table se al fuel (k + r + 1) (vset blk (k + r) w)
    else pure blk

/-- HUF_AC_FIRST (R314) on the block at `a`. -/
def hufAcFirst (a : Address) : Act Unit := do
  let s ← get
  if s.pr.eobrun > 0 then setEobrun (s.pr.eobrun - 1)
  else
    let blk ← getBlock a
    let blk ← acFirst (vget s.arena.acTables (s.fr.compAt a.c).ta.toNat none) s.sc.se.toNat s.sc.al.toNat 64
      s.sc.ss.toNat blk
    setBlock a blk
    closeBlock

/-- Correct(k) (R295). -/
def correct (p1 : Int) (blk : Block) (k : Nat) : Act Block := do
  let bit ← nextBit
  let v := vget blk k 0
  pure (if bit && v / p1 % 2 == 0 then vset blk k (if v ≥ 0 then v + p1 else v - p1) else blk)

/-- The loop that skips `r` zero-history coefficients (R316): the position and the block. -/
def skipZeros (p1 : Int) (se : Nat) : Nat → Nat → Nat → Block → Act (Nat × Block)
  | 0, k, _, blk => pure (k, blk)
  | fuel + 1, k, r, blk =>
    if k ≤ se then
      if vget blk k 0 ≠ 0 then do
        let blk ← correct p1 blk k
        skipZeros p1 se fuel (k + 1) r blk
      else if r = 0 then pure (k, blk)
      else skipZeros p1 se fuel (k + 1) (r - 1) blk
    else pure (k, blk)

/-- The end-of-band pass (R316). -/
def eobPass (p1 : Int) (se : Nat) : Nat → Nat → Block → Act Block
  | 0, _, blk => pure blk
  | fuel + 1, k, blk =>
    if k ≤ se then
      if vget blk k 0 ≠ 0 then do
        let blk ← correct p1 blk k
        eobPass p1 se fuel (k + 1) blk
      else eobPass p1 se fuel (k + 1) blk
    else pure blk

/-- The symbols of a refinement band (R316) from position `k` on: the position where an end-of-band symbol, or the band's end, was
met, and the block. EOBRUN is set by the end-of-band symbol. -/
def refineSymbols (table : Option HuffTable) (p1 : Int) (se : Nat) : Nat → Nat → Block → Act (Nat × Block)
  | 0, k, blk => pure (k, blk)
  | fuel + 1, k, blk =>
    if k ≤ se then do
      let rs ← decodeHuff table
      let r := rs.toNat / 16
      let s := rs.toNat % 16
      if s = 1 then do
        let bit ← nextBit
        let (k, blk) ← skipZeros p1 se 64 k r blk
        if k > se then raise .formatError
        else refineSymbols table p1 se fuel (k + 1) (vset blk k (if bit then p1 else -p1))
      else if s = 0 then
        if r < 15 then do
          let n ← receive r
          setEobrun (2 ^ r + n)
          pure (k, blk)
        else do
          let (k, blk) ← skipZeros p1 se 64 k 15 blk
          refineSymbols table p1 se fuel (k + 1) blk
      else raise .formatError
    else pure (k, blk)

/-- HUF_AC_REFINE (R316) on the block at `a`. -/
def hufAcRefine (a : Address) : Act Unit := do
  let s ← get
  let p1 : Int := 2 ^ s.sc.al.toNat
  let se := s.sc.se.toNat
  let blk ← getBlock a
  let (k, blk) ←
    if s.pr.eobrun = 0 then
      refineSymbols (vget s.arena.acTables (s.fr.compAt a.c).ta.toNat none) p1 se 64 s.sc.ss.toNat blk
    else pure (s.sc.ss.toNat, blk)
  let s ← get
  if s.pr.eobrun > 0 then
    let blk ← eobPass p1 se 64 k blk
    setBlock a blk
    setEobrun (s.pr.eobrun - 1)
  else setBlock a blk
  closeBlock

/-- HUF_LOSSLESS (R400) on the sample at `a`. -/
def hufLossless (a : Address) : Act Unit := do
  rowStart a
  let s ← get
  let t ← decodeHuff (vget s.arena.dcTables (s.fr.compAt a.c).td.toNat none)
  if t.toNat ≥ 16 then raise .formatError
  else
    let v ← receive t.toNat
    storeSample a (extend v t.toNat)
    closeBlock

/-! The arithmetic decisions. -/

/-- ArithDecode gives the listed decisions, one bin after the other, from one state to another. -/
def decides : List (Bin × Bool) → State → State → Prop
  | [], s, t => t = s
  | (bin, d) :: rest, s, t => ∃ u, arithDecode bin s = .ok (d, u) ∧ decides rest u t

/-- The bins from `x` on, each deciding 1, `n` of them. -/
def ones (bin : Nat → Bin) (x n : Nat) : List (Bin × Bool) := (List.range n).map fun j => (bin (x + j), true)

/-- The bins from `x` on: `n` of them decide 1, the next one 0. -/
def unary (bin : Nat → Bin) (x n : Nat) : List (Bin × Bool) := ones bin x n ++ [(bin (x + n), false)]

/-- Decisions of one bin. -/
def bitsIn (bin : Bin) (bits : List Bool) : List (Bin × Bool) := bits.map fun d => (bin, d)

/-! The arithmetic bands. -/

/-- The zero run of R350 and R358: the next position whose coefficient is not zero. -/
def zeroRun (bin : Nat → Bin) (last : Nat) : Nat → Nat → Act Nat
  | 0, k => pure k
  | fuel + 1, k => do
    let nz ← arithDecode (bin (3 * (k - 1) + 1))
    if nz then pure k
    else if k + 1 > last then raise .formatError
    else zeroRun bin last fuel (k + 1)

/-- The band of R350 (shift 0) and R358 (shift AL) from position `k` on. -/
def ariBand (c : Nat) (bin : Nat → Bin) (last : Nat) (value : Int → Act Int) : Nat → Nat → Block → Act Block
  | 0, _, blk => pure blk
  | fuel + 1, k, blk =>
    if k ≤ last then do
      let eob ← arithDecode (bin (3 * (k - 1)))
      if eob then pure blk
      else
        let k ← zeroRun bin last 64 k
        let v ← decodeAcValue c k
        let w ← value v
        ariBand c bin last value fuel (k + 1) (vset blk k w)
    else pure blk

/-- ARI_SEQ (R350) on the block at `a`. -/
def ariSeq (a : Address) : Act Unit := do
  let blk ← getBlock a
  let diff ← decodeDcDiff a.c
  let val ← predictDc a.c diff
  let s ← get
  let blk ← ariBand a.c (Bin.ac (s.fr.compAt a.c).ta.toNat) 63 pure 64 1 (vset blk 0 val)
  setBlock a blk

/-- ARI_AC_FIRST (R358) on the block at `a`. -/
def ariAcFirst (a : Address) : Act Unit := do
  let blk ← getBlock a
  let s ← get
  let blk ← ariBand a.c (Bin.ac (s.fr.compAt a.c).ta.toNat) s.sc.se.toNat (fun v => checked32 (v * 2 ^ s.sc.al.toNat)) 64
    s.sc.ss.toNat blk
  setBlock a blk

/-- The inner loop of R360: the position that was corrected or became non-zero, and the block. -/
def ariRefineRun (bin : Nat → Bin) (last : Nat) (p1 : Int) : Nat → Nat → Block → Act (Nat × Block)
  | 0, k, blk => pure (k, blk)
  | fuel + 1, k, blk =>
    let v := vget blk k 0
    if v ≠ 0 then do
      let d ← arithDecode (bin (3 * (k - 1) + 2))
      pure (k, if d then vset blk k (v + if v < 0 then -p1 else p1) else blk)
    else do
      let nz ← arithDecode (bin (3 * (k - 1) + 1))
      if nz then
        let neg ← arithDecode .fixed
        pure (k, vset blk k (if neg then -p1 else p1))
      else if k + 1 > last then raise .formatError
      else ariRefineRun bin last p1 fuel (k + 1) blk

/-- The refinement loop of R360. -/
def ariRefineBand (bin : Nat → Bin) (last kex : Nat) (p1 : Int) : Nat → Nat → Block → Act Block
  | 0, _, blk => pure blk
  | fuel + 1, k, blk =>
    if k ≤ last then do
      let eob ← if k > kex then arithDecode (bin (3 * (k - 1))) else pure false
      if eob then pure blk
      else
        let (k, blk) ← ariRefineRun bin last p1 64 k blk
        ariRefineBand bin last kex p1 fuel (k + 1) blk
    else pure blk

/-- ARI_AC_REFINE (R360) on the block at `a`. -/
def ariAcRefine (a : Address) : Act Unit := do
  let blk ← getBlock a
  let s ← get
  let kex := ((List.range (s.sc.se.toNat + 1)).reverse.find? fun k => k == 0 || vget blk k 0 != 0).getD 0
  let blk ← ariRefineBand (Bin.ac (s.fr.compAt a.c).ta.toNat) s.sc.se.toNat kex (2 ^ s.sc.al.toNat) 64 s.sc.ss.toNat blk
  setBlock a blk

/-! The encoder's procedures. -/

/-- The pending node with the smallest key (R500). -/
def smallest : List TreeNode → Option TreeNode
  | [] => none
  | n :: rest =>
    match smallest rest with
    | none => some n
    | some m => some (if m.before n then m else n)

/-- The merge loop of R500 on the pending nodes in any order, at most `fuel` times: the leaves of the root with their depths. -/
def mergePending : Nat → List TreeNode → List (Nat × Nat)
  | 0, _ => []
  | fuel + 1, pending =>
    match smallest pending with
    | none => []
    | some x =>
      match smallest (pending.erase x) with
      | none => x.leaves
      | some y =>
        mergePending fuel (⟨x.freq + y.freq, min x.idx y.idx, (x.leaves ++ y.leaves).map fun l => (l.1, l.2 + 1)⟩ ::
          (pending.erase x).erase y)

/-- The values of `room` coefficients that AC symbols with their extra bits stand for (R302): EOB is the last symbol and leaves zeros,
ZRL is 16 zeros, any other is a run of zeros and a value. -/
def acValues : List Token → Nat → List Int
  | [], _ => []
  | t :: rest, room =>
    if t.sym = 0 then (if rest = [] then List.replicate room 0 else [])
    else if t.sym = 0xF0 then List.replicate 16 0 ++ acValues rest (room - 16)
    else List.replicate (t.sym / 16) 0 ++ extend t.extra t.size :: acValues rest (room - t.sym / 16 - 1)

end Rule

end Sys2Proof.Machine
end

