-- ==== Sys2Proof/Certificates/Slice0/Obligations.lean ====
section
/-! DEFINITION. The statements for the provers: encodings, the step, the host's side, taking an error, the markers of the layout
scan and of the replay, the traversal, the entropy decoders, reconstruction, the encoder, and what every step keeps. -/

open Sys2Proof Sys2Proof.Machine

/-! ### Encodings -/

/-- Decoding the bytes of a well-formed instruction gives it back, with the bytes after it left over (R132, R153, R154, R156, R158,
R32). -/
def Obligations.EncodeThenDecode : Prop :=
  ∀ (i : Instr) (rest : List Byte), i.wf = true → decode i.space (encode i ++ rest) = .ok (i, rest)

/-- Bytes that decode as a marker, a selector or a symbol are the encoding of a well-formed instruction of that space, and nothing of
them is dropped. A CTRL write is left out: its reserved bits are ignored (R32). -/
def Obligations.DecodedBytesEncodeBack : Prop :=
  ∀ (sp : Space) (bytes rest : List Byte) (i : Instr), sp ≠ .ctrl → decode sp bytes = .ok (i, rest) →
    i.wf = true ∧ i.space = sp ∧ bytes = encode i ++ rest

/-- Words written out from the tables of R132, R158, R153, R154 and R32, one or more of each kind. -/
def Obligations.WordsOfTheTables : Prop :=
  decodeInstr .marker [0xFF, 0xC0] = some .sof0 ∧ decodeInstr .marker [0xFF, 0xDA] = some .sos ∧
  decodeInstr .marker [0xFF, 0xD5] = some (.rst 5) ∧ decodeInstr .marker [0xFF, 0xE9] = some (.app8 1) ∧
  decodeInstr .marker [0xFF, 0x00] = none ∧ decodeInstr .marker [0xFF, 0xFF] = none ∧
  decodeInstr .sel [0x50] = some (.hufSeq true true) ∧ decodeInstr .sel [0x40] = none ∧
  decodeInstr .sel [0xE3] = some (.ariAcRefine true) ∧ decodeInstr .symDc [0x0B] = some (.dcCategory 11) ∧
  decodeInstr .symDc [0x10] = none ∧ decodeInstr .symAc [0xF0] = some .zrl ∧
  decodeInstr .symAc [0x30] = some (.eobn 3) ∧ decodeInstr .symAc [0xA5] = some (.acCoeff 10 5) ∧
  decodeInstr .ctrl [0x07, 0, 0, 0] = some (.encode true) ∧ decodeInstr .ctrl [0x06, 0, 0, 0] = none

/-! ### The step -/

/-- In the layout scan the step runs the marker at BP, after any number of fill bytes (R130, R202): BP is past the marker and MOFF is
the offset of its last 0xFF. Fewer than two bytes left, a first byte that is not 0xFF, fill bytes up to the end of the input, and
0xFF 0x00 are FormatErrors. -/
def Obligations.StepRunsTheNextMarker : Prop :=
  (∀ (s : State) (n : Nat) (m : Byte) (i : Instr), s.script = [] → s.sq.phase = .scan → s.undisturbed →
    s.readable s.rd.bp (n + 2) → (∀ k ≤ n, s.inByte (s.rd.bp + k) = 0xFF) → s.inByte (s.rd.bp + n + 1) = m →
    decodeInstr .marker [0xFF, m] = some i →
    step s = settle (exec i { s with
      rd := { s.rd with bp := s.rd.bp + n + 2 }, sq := { s.sq with moff := s.rd.bp + n } })) ∧
  (∀ s : State, s.script = [] → s.sq.phase = .scan → s.undisturbed →
    (s.inLen < s.rd.bp + 2 → step s = .next (failEntry .formatError s)) ∧
    (s.readable s.rd.bp 2 → s.inByte s.rd.bp ≠ 0xFF → step s = .next (failEntry .formatError s)) ∧
    (∀ n, s.readable s.rd.bp (n + 2) → (∀ k ≤ n + 1, s.inByte (s.rd.bp + k) = 0xFF) → s.inLen = s.rd.bp + n + 2 →
      step s = .next (failEntry .formatError s)) ∧
    (∀ n, s.readable s.rd.bp (n + 2) → (∀ k ≤ n, s.inByte (s.rd.bp + k) = 0xFF) → s.inByte (s.rd.bp + n + 1) = 0x00 →
      step s = .next (failEntry .formatError s)))

/-- A stream starts with SOI (R200): a shorter input or any other first two bytes is a FormatError, SOI leaves BP at 2. -/
def Obligations.StreamStartsWithSoi : Prop :=
  ∀ s : State, s.script = [] → s.sq.phase = .soi → s.undisturbed →
    (s.inLen < 2 → step s = .next (failEntry .formatError s)) ∧
    (s.readable 0 2 → s.inWord 0 ≠ 0xFFD8 → step s = .next (failEntry .formatError s)) ∧
    (s.readable 0 2 → s.inWord 0 = 0xFFD8 →
      (step s = settle (exec .soi { s with rd := { s.rd with bp := 2 }, sq := { s.sq with moff := 0 } })) ∧
      step s = .next { s with rd := { s.rd with bp := 2 }, sq := { s.sq with moff := 0, phase := .scan } })

/-- The entropy walk (R206, R150): over stuffed data, then `f` fill bytes, to the code byte `q` of the marker; the interval ends before
the fill bytes and MOFF is the offset of the 0xFF before `q`. Data, or fill bytes, that run to the end of the input, and more than one
0xFF before 0x00, are FormatErrors. The step in entropy data is this walk: a restart marker is the instruction it runs, any other
marker ends the scan's entropy data, and the marker loop reads it next; an error of the walk is taken. -/
def Obligations.EntropyDataEndsAtAMarker : Prop :=
  (∀ (s : State) (data : List Byte) (f : Nat),
    let stuffed := data.flatMap fun b => if b = 0xFF then [0xFF#8, 0x00#8] else [b]
    let fill := stuffed ++ List.replicate (f + 1) 0xFF
    let at' (bytes : List Byte) : Prop := s.readable s.rd.bp bytes.length ∧ s.inBytes s.rd.bp bytes.length = bytes
    (∀ q, q ≠ 0x00 → q ≠ 0xFF → at' (fill ++ [q]) →
      walkInterval s = .ok (q, { s with
        rd := { s.rd with bp := s.rd.bp + stuffed.length }, sq := { s.sq with moff := s.rd.bp + stuffed.length + f } })) ∧
    (at' stuffed → s.inLen = s.rd.bp + stuffed.length → walkInterval s = .error (.raise .formatError s)) ∧
    (at' fill → s.inLen = s.rd.bp + fill.length → walkInterval s = .error (.raise .formatError s)) ∧
    (1 ≤ f → at' (fill ++ [0x00]) → walkInterval s = .error (.raise .formatError s))) ∧
  (∀ (s t : State) (q : Byte), s.script = [] → s.sq.phase = .entropy → s.undisturbed → walkInterval s = .ok (q, t) →
    (∀ m : BitVec 3, q = 0xD0 ||| m.setWidth 8 → step s = settle (exec (.rst m) t)) ∧
    ((∀ m : BitVec 3, q ≠ 0xD0 ||| m.setWidth 8) → t.roomFor .layoutRecord →
      let u := t.recorded fun l => l.addInterval ⟨t.sq.ivstart, t.rd.bp - t.sq.ivstart⟩
      step s = .next { u with
        rd := { u.rd with bp := t.sq.moff }, sq := { u.sq with scanEnd := t.sq.moff, phase := .scan } })) ∧
  (∀ (s t : State) (e : ErrKind), s.script = [] → s.sq.phase = .entropy → s.undisturbed →
    walkInterval s = .error (.raise e t) → step s = .next (failEntry e t))

/-- While units are decoded the step runs the next symbol of a block in progress (R292, R153, R154, R156), and with none in progress
the routine that SEL names (R158, R264). The host's write of START to CTRL is the command it encodes (R582): the step runs it, and
the script moves on. That the host's actions come from `script` is the model's choice (log 1). -/
def Obligations.StepRunsEntropyCodeAndCommands : Prop :=
  (∀ s : State, s.script = [] → s.sq.phase = .unit → s.undisturbed →
    (∀ t b sym i, s.sq.block = some b → decodeHuff (s.symbolTable b) s = .ok (sym, t) →
      decodeInstr b.symbolSpace [sym] = some i → step s = settle (exec i t)) ∧
    (∀ i, s.sq.block = none → decodeInstr .sel [selOf s.fr.ft s.sc.ss s.sc.ah] = some i → step s = settle (exec i s))) ∧
  (∀ (s : State) (v : Word) (rest : List HostAct) (i : Instr), s.script = .write s.params.lpjBase 4 v :: rest →
    decodeInstr .ctrl (bytesLE 4 v.toNat) = some i → step s = exec i { s with script := rest })

/-- Before a frame's SOF, and before a scan's SOS, the step replays the next recorded table marker whose offset is smaller, each once
and in order (R215, R216; before a SOF by R584 step 2a); when none is left it runs the SOF or the SOS. -/
def Obligations.StepReplaysTheTables : Prop :=
  ∀ (s : State) (limit : Nat) (last : Instr), s.script = [] → s.undisturbed →
    ((s.sq.phase = .replaySof ∧ ∃ f i, s.frameRec = some f ∧ (f.n, i) ∈ sofMarkers ∧ limit = f.sofOff ∧ last = i) ∨
      (s.sq.phase = .replaySos ∧ ∃ r, s.scanRec = some r ∧ limit = r.sosOff ∧ last = .sos)) →
    (∀ a, s.arena.layout.aux[s.sq.auxPos]? = some a → a.off < limit →
      step s = settle (exec a.marker.instr { s with
        rd := { s.rd with bp := a.off + 2 }, sq := { s.sq with moff := a.off, auxPos := s.sq.auxPos + 1 } })) ∧
    ((∀ a, s.arena.layout.aux[s.sq.auxPos]? = some a → limit ≤ a.off) →
      step s = settle (exec last { s with rd := { s.rd with bp := limit + 2 }, sq := { s.sq with moff := limit } }))

/-- What follows an instruction of the engine (R266, R267): nothing while a block is in progress or outside a scan; after a completed
block the next descriptor entry, else the next unit of the interval; after the interval's last block the exit check (a Huffman interval
must be consumed, an arithmetic one where ARITH_TRAILING rejects), then the next interval, or the next scan of the frame, or the
frame's end (R215). And the entry of an interval (R265, R342): BP and SEG_END from its record, predictors, contexts and difference
history 0, EOBRUN 0, BITCNT 0 and every bin 0 (R47, R48); in an arithmetic frame the decoder's registers as InitDec leaves them; its
first unit is decoded next, and nothing else changes but BITBUF, which the rules give no value and this statement leaves open (log 9). -/
def Obligations.DriverAfterABlock : Prop :=
  (∀ s : State,
    (s.sq.phase ≠ .unit ∨ s.sq.block ≠ none → settle (.next s) = .next s) ∧
    (s.sq.phase = .unit → s.sq.block = none →
      (s.sc.entry + 1 < s.sc.mcud.length →
        settle (.next s) = .next { s with sc := { s.sc with entry := s.sc.entry + 1 } }) ∧
      (s.sc.mcud.length ≤ s.sc.entry + 1 → s.sc.unit + 1 < s.endUnit →
        settle (.next s) = .next { s with sc := { s.sc with entry := 0, unit := s.sc.unit + 1 } }) ∧
      (s.sc.mcud.length ≤ s.sc.entry + 1 → s.endUnit ≤ s.sc.unit + 1 →
        let consumed : Prop :=
          if s.fr.ft.getLsbD 3 then s.params.arithTrailing = .ignore ∨ s.rd.segEnd ≤ s.rd.bp else s.rd.bp = s.rd.segEnd
        (¬ consumed → settle (.next s) = .next (failEntry .formatError s)) ∧
        (consumed → s.sc.intv + 1 < s.sc.ni →
          settle (.next s) = .next { s with
            sc := { s.sc with intv := s.sc.intv + 1 }, sq := { s.sq with phase := .interval } }) ∧
        (consumed → s.sc.ni ≤ s.sc.intv + 1 → ∀ f, s.frameRec = some f →
          (s.sq.scanIx + 1 < f.scans.length →
            settle (.next s) = .next { s with sq := { s.sq with scanIx := s.sq.scanIx + 1, phase := .replaySos } }) ∧
          (f.scans.length ≤ s.sq.scanIx + 1 →
            settle (.next s) = .next { s with sq := { s.sq with phase := .frameEnd } }))))) ∧
  (∀ (s : State) (r : ScanRec) (iv : Interval), s.script = [] → s.undisturbed → s.sq.phase = .interval →
    s.scanRec = some r → r.intervals[s.sc.intv]? = some iv →
    ∃ t, step s = .next t ∧
      t = { s with rd := t.rd, pr := t.pr, st := t.st, qm := t.qm,
                   sc := { s.sc with unit := s.sc.intv * s.tb.ri.toNat, entry := 0 }, sq := { s.sq with phase := .unit } } ∧
      t.rd.bp = iv.off ∧ t.rd.segEnd = iv.off + iv.len ∧
      (∀ c, vget t.pr.pred c 0 = 0 ∧ vget t.pr.dcCtx c 0 = 0 ∧ (∀ r, vget (t.pr.leftRow c) r 0 = 0) ∧
        ∀ x, lget (vget t.pr.ldb c []) x 0 = 0) ∧
      t.pr.eobrun = 0 ∧ t.rd.bitCnt = 0 ∧ (∀ bin, t.st.binByte bin = 0) ∧
      (s.fr.ft.getLsbD 3 = true → t.qm = ⟨0, 0, -16, false⟩) ∧ (s.fr.ft.getLsbD 3 = false → t.qm = s.qm))

/-! ### The host's side -/

/-- After reset every host register holds the value of R32's table, the interrupt is low and the engine is idle: a step with no host
action changes nothing (R32, R580). The hardware reset from any state (R580, R581): the registers of R32; an operation in progress
is abandoned, the output buffer and the arena hold unspecified content, every other byte is kept. -/
def Obligations.HardwareReset : Prop :=
  ((∀ k < 16, State.reset.regs.word k = if k = 13 then 0xFFFFFFFF else 0) ∧
  State.reset.busy = false ∧ State.reset.done = false ∧ State.reset.err = false ∧ State.reset.irq = false ∧
  State.reset.sq.phase = .idle ∧ step State.reset = .next State.reset) ∧
  (∀ (s : State) (rest : List HostAct), s.mem.wf = true → s.script = .reset :: rest →
    ∃ t, step s = .next t ∧ t.script = rest ∧ t.regs = State.reset.regs ∧ t.sq.phase = .idle ∧
      t.params = s.params ∧ t.rdata = s.rdata ∧ t.draws = s.draws ∧ t.overflow = s.overflow ∧
      (s.busy = false → t.mem = s.mem) ∧
      (s.busy = true → ∀ a,
        (s.inOutput a = true ∨ s.inArena a = true → t.mem.unknown a = true) ∧
        (s.inOutput a = false → s.inArena a = false →
          t.mem.unknown a = s.mem.unknown a ∧ t.mem.read a = s.mem.read a)))

/-- While BUSY a write to a configuration register is ignored, and a write of START too; reads answer at any time (R34).
That alignment is counted from LPJ_BASE and that the block does not wrap at 2^32 are the model's choices (log 14). -/
def Obligations.BusyWritesAreIgnored : Prop :=
  ∀ (s : State) (addr : Word) (off : Nat) (rest : List HostAct), s.regOffset addr = some off → off % 4 = 0 →
    (∀ v, s.busy = true → off / 4 ∈ [0, 3, 4, 5, 6, 7, 8, 9, 10, 11] → s.script = .write addr 4 v :: rest →
      step s = .next { s with script := rest }) ∧
    (s.script = .read addr 4 :: rest →
      step s = .next { s with script := rest, rdata := s.regs.word (off / 4) })

/-- A register access that is not an aligned 32-bit word is ignored on write and reads 0 (R108). A write to STATUS clears DONE and ERR
where it has a 1 and changes nothing else; a write to a read-only register changes nothing (R32, R35, R109). When idle a configuration
register takes the value written, IMG_WIDTH and IMG_HEIGHT its low 16 bits, and every other register is kept (R32, R34). That alignment
is counted from LPJ_BASE and that the block does not wrap at 2^32 are the model's choices (log 14). -/
def Obligations.RegisterAccesses : Prop :=
  (∀ (s : State) (addr : Word) (off width : Nat) (rest : List HostAct), s.regOffset addr = some off →
    off % 4 ≠ 0 ∨ width ≠ 4 →
    (∀ v, s.script = .write addr width v :: rest → step s = .next { s with script := rest }) ∧
    (s.script = .read addr width :: rest → step s = .next { s with script := rest, rdata := 0 })) ∧
  (∀ (s : State) (addr v : Word) (off : Nat) (rest : List HostAct), s.regOffset addr = some off →
    s.script = .write addr 4 v :: rest →
    (off = 4 → ∃ r : HostRegs, step s = .next { s with script := rest, regs := r } ∧
      r = { s.regs with status := r.status } ∧
      r.status.getLsbD 1 = (s.done && !v.getLsbD 1) ∧ r.status.getLsbD 2 = (s.err && !v.getLsbD 2) ∧
      ∀ k, k ≠ 1 → k ≠ 2 → r.status.getLsbD k = s.regs.status.getLsbD k) ∧
    (off ∈ [8, 48, 52, 56, 60] → step s = .next { s with script := rest }) ∧
    (s.busy = false → off ∈ [12, 16, 20, 24, 28, 32, 36, 40, 44] →
      ∃ r : HostRegs, step s = .next { s with script := rest, regs := r } ∧
        (r.word (off / 4)).toNat = (if off < 40 then v.toNat else v.toNat % 65536) ∧
        ∀ k < 16, k ≠ off / 4 → r.word k = s.regs.word k))

/-- START (R582): a write to CTRL with bit 0 set is accepted when idle and OP and IRQ_EN are those of that write; it is ignored entirely
while BUSY; without bit 0 it only updates OP and IRQ_EN when idle; START reads back as 0. -/
def Obligations.StartAcceptance : Prop :=
  ∀ (s : State) (v : Word) (rest : List HostAct), s.script = .write s.params.lpjBase 4 v :: rest →
    (s.busy = true → step s = .next { s with script := rest }) ∧
    (s.busy = false → v.getLsbD 0 = true →
      step s = .next (State.accept { s with script := rest } (v.getLsbD 1) (v.getLsbD 2))) ∧
    (s.busy = false → v.getLsbD 0 = false →
      step s = .next { s with script := rest, regs := { s.regs with ctrl := ctrlWord (v.getLsbD 1) (v.getLsbD 2) } }) ∧
    (∀ op en, (s.accept op en).op = op ∧ (s.accept op en).irqEn = en ∧ (s.accept op en).busy = true ∧
      (s.accept op en).regs.ctrl.getLsbD 0 = false ∧ (ctrlWord op en).getLsbD 0 = false ∧
      (ctrlWord op en).getLsbD 1 = op ∧ (ctrlWord op en).getLsbD 2 = en)

/-- DECODE and ENCODE when idle complete with the effects of R583: status and results cleared for the operation, the table set at its
START values, the arena empty, every other register and all of memory kept. Where the arena shares an address with the input or the
output the engine's reads of it are draws from here on (R591), which is how the model says it (log 15). -/
def Obligations.StartEffects : Prop :=
  ∀ (s : State) (op en : Bool), s.busy = false →
    ∃ t, exec (if op then .encode en else .decode en) s = .next t ∧
      t.busy = true ∧ t.done = false ∧ t.err = false ∧ t.irq = false ∧ t.regs.errcode = 0 ∧
      (op = true → t.regs.outUsed = 0 ∧ t.regs.info = s.regs.info ∧ t.regs.exifOff = s.regs.exifOff ∧
        t.regs.exifLen = s.regs.exifLen ∧ t.sq.phase = .encRead) ∧
      (op = false → t.regs.outUsed = s.regs.outUsed ∧ t.regs.info = 0 ∧ t.regs.exifOff = 0xFFFFFFFF ∧
        t.regs.exifLen = 0 ∧ t.sq.phase = .soi) ∧
      t.regs.config = s.regs.config ∧ t.regs.imgWidth = s.regs.imgWidth ∧ t.regs.imgHeight = s.regs.imgHeight ∧
      t.arena.used = 0 ∧ (∀ cls i, t.arena.slot cls i = none) ∧ (∀ i < 4, vget t.tb.qt i none = none) ∧
      t.tb.defaultHt = false ∧ t.tb.ri = 0 ∧ (∀ i < 4, vget t.tb.dacDc i 0 = 0x10 ∧ vget t.tb.dacAc i 0 = 5) ∧
      t.params = s.params ∧ t.script = s.script ∧ t.rdata = s.rdata ∧ t.draws = s.draws ∧ t.overflow = s.overflow ∧
      t.mem = s.mem ∧ t.breach.out = [] ∧
      (t.breach.arena = true ↔ ∃ a, s.inArena a = true ∧ (s.inInput a = true ∨ s.inOutput a = true))

/-! ### Errors and the end of an operation -/

/-- The interrupt output is the level IRQ_EN & DONE and has no other source (R36): it rises at the end of an operation where it is
enabled and falls at START. Success (R587): ERRCODE.KIND is 0, the arena is released, BUSY falls with DONE set and ERR clear; the other
registers and memory are kept. Taking an error (R545): a raise ends the rule and every enclosing one; the arena is released, ERRCODE
holds the code of R540, the results are withdrawn, BUSY falls with DONE and ERR set; the content of the output buffer, and of an arena
the engine allocated in (log 13), is unspecified, and every other byte is kept. That the arena's records then stand at their initial
values is the model's choice (log 16). -/
def Obligations.SuccessAndFailure : Prop :=
  (∀ s : State, s.irq = (s.regs.ctrl.getLsbD 2 && s.regs.status.getLsbD 1) ∧
    (∀ failed, (s.finish failed).irq = s.regs.ctrl.getLsbD 2) ∧ (∀ op en, (s.accept op en).irq = false)) ∧
  (∀ s : State, let t := succeed s
    t.regs = { s.regs with errcode := 0, status := 2 } ∧ t.busy = false ∧ t.done = true ∧ t.err = false ∧
    t.arena.used = 0 ∧ t.sq.phase = .idle ∧ t.mem = s.mem ∧ t.params = s.params ∧ t.script = s.script ∧
    t.rdata = s.rdata ∧ t.draws = s.draws ∧ t.overflow = s.overflow) ∧
  (∀ (m : Act Unit) (k : Unit → Act Unit) (s u : State) (e : ErrKind), m s = .error (.raise e u) →
    runAct m s = .next (failEntry e u) ∧ runAct (m >>= k) s = .next (failEntry e u)) ∧
  ∀ (e : ErrKind) (s : State), s.mem.wf = true →
    let t := failEntry e s
    t.arena.used = 0 ∧ t.arena = Arena.init ∧
    t.regs.errcode = (match e with | .formatError => 1 | .imageDataError => 2 | .imageTooLarge => 3 | .outOfMemory => 4) ∧
    t.regs.outUsed = 0 ∧ t.regs.info = 0 ∧ t.regs.exifOff = 0xFFFFFFFF ∧ t.regs.exifLen = 0 ∧
    (s.op = false → t.regs.imgWidth = 0 ∧ t.regs.imgHeight = 0) ∧
    (s.op = true → t.regs.imgWidth = s.regs.imgWidth ∧ t.regs.imgHeight = s.regs.imgHeight) ∧
    t.err = true ∧ t.done = true ∧ t.busy = false ∧ t.sq.phase = .idle ∧
    t.regs.ctrl = s.regs.ctrl ∧ t.regs.config = s.regs.config ∧
    t.params = s.params ∧ t.script = s.script ∧ t.rdata = s.rdata ∧ t.draws = s.draws ∧ t.overflow = s.overflow ∧
    ∀ a, (s.inOutput a = true ∨ (s.arena.used ≠ 0 ∧ s.inArena a = true) → t.mem.unknown a = true) ∧
      (s.inOutput a = false → s.arena.used = 0 ∨ s.inArena a = false →
        t.mem.unknown a = s.mem.unknown a ∧ t.mem.read a = s.mem.read a)

/-! ### Markers in the layout scan -/

/-- A reserved marker anywhere, and SOI anywhere but at the start, raises FormatError (R201), and so does RSTm outside entropy data
(R207). RSTm in entropy data (R206, R208): the interval that ends is recorded; RST of EXPECT_RST opens the next interval behind the
marker and EXPECT_RST counts on modulo 8; any other RSTm is a FormatError. -/
def Obligations.IllegalAndRestartMarkers : Prop :=
  (∀ (i : Instr) (s : State), (isReserved i = true ∨ (i = .soi ∧ s.sq.phase ≠ .soi)) →
    exec i s = .next (failEntry .formatError s)) ∧
  (∀ (m : BitVec 3) (s : State), s.sq.phase ≠ .entropy → exec (.rst m) s = .next (failEntry .formatError s)) ∧
  (∀ (m : BitVec 3) (s : State), s.sq.phase = .entropy → s.roomFor .layoutRecord →
    let u := s.recorded fun l => l.addInterval ⟨s.sq.ivstart, s.rd.bp - s.sq.ivstart⟩
    (m = s.sc.expectRst → exec (.rst m) s = .next { u with
      sc := { u.sc with expectRst := s.sc.expectRst + 1 }
      rd := { u.rd with bp := s.sq.moff + 2 }
      sq := { u.sq with ivstart := s.sq.moff + 2 } }) ∧
    (m ≠ s.sc.expectRst → exec (.rst m) s = .next (failEntry .formatError u)))

/-- SOFn in the layout scan (R203): a frame record, and BP past the segment; a second frame, or a differential one, needs a
hierarchical image; Lx = 8 + 3 Nf and Nf in 1..4 are checked. That they are checked before the record is allocated, so that a record
without room does not come first, is the model's order (log 38). -/
def Obligations.SofRecordsAFrame : Prop :=
  ∀ (n : BitVec 4) (i : Instr) (s : State), (n, i) ∈ sofMarkers → s.replaying = false →
    (s.hi.dhp = none → s.arena.layout.frames ≠ [] ∨ n.getLsbD 2 = true →
      exec i s = .next (failEntry .formatError s)) ∧
    (∀ lx, s.segmentAt lx → (s.hi.dhp = none → s.arena.layout.frames = [] ∧ n.getLsbD 2 = false) →
      let nf := (s.inByte (s.rd.bp + 7)).toNat
      (8 ≤ lx → lx = 8 + 3 * nf → 1 ≤ nf → nf ≤ 4 → s.roomFor .layoutRecord →
        exec i s = .next ((s.recorded fun l => l.addFrame s.sq.moff n).past lx)) ∧
      (lx < 8 ∨ lx ≠ 8 + 3 * nf ∨ nf < 1 ∨ 4 < nf → exec i s = .next (failEntry .formatError s)))

/-- SOS in the layout scan (R204, R205): before any frame a FormatError; otherwise Lx = 6 + 2 Ns and Ns in 1..4 are checked, a scan
record is appended to the last frame, and the entropy data begins after the segment with EXPECT_RST = 0. That they are checked before the
record is allocated is the model's order (log 38). -/
def Obligations.SosOpensAScan : Prop :=
  ∀ s : State, s.replaying = false →
    (s.arena.layout.frames = [] → exec .sos s = .next (failEntry .formatError s)) ∧
    (∀ lx, s.segmentAt lx → s.arena.layout.frames ≠ [] →
      let ns := (s.inByte (s.rd.bp + 2)).toNat
      (3 ≤ lx → lx = 6 + 2 * ns → 1 ≤ ns → ns ≤ 4 → s.roomFor .layoutRecord →
        let u := (s.recorded fun l => l.addScan s.sq.moff).past lx
        exec .sos s = .next { u with
          sq := { u.sq with ivstart := s.rd.bp + lx, phase := .entropy }, sc := { u.sc with expectRst := 0 } }) ∧
      (lx < 3 ∨ lx ≠ 6 + 2 * ns ∨ ns < 1 ∨ 4 < ns → exec .sos s = .next (failEntry .formatError s)))

/-- DHP (R209, R141): before any frame and once, it declares the final image; DHP_OFF and INFO[3] are set and BP is past the
segment; otherwise, and where Lx is not 8 + 3 Nf, a FormatError. That no field of the DHP itself is checked, Nf = 0 included, is the
model's reading (log 22). EOI (R210): with no frame, or a frame without a scan, a FormatError, and so with an EXP in an image that has
no DHP (R226, R584; found here by the model's reading, log 18); otherwise the layout is complete and the first frame is decoded next.
That the lines of R224 are not looked for here, but when a frame is decoded, is the model's order (log 35). -/
def Obligations.DhpAndEoi : Prop :=
  (∀ s : State,
    (s.hi.dhp ≠ none ∨ s.arena.layout.frames ≠ [] → exec .dhp s = .next (failEntry .formatError s)) ∧
    (∀ lx, s.segmentAt lx → s.hi.dhp = none → s.arena.layout.frames = [] →
      let bp := s.rd.bp
      let nf := (s.inByte (bp + 7)).toNat
      (8 ≤ lx → lx = 8 + 3 * nf →
        let comps := (List.range nf).map fun k =>
          let hv := (s.inByte (bp + 9 + 3 * k)).toNat
          (s.inByte (bp + 8 + 3 * k), hv / 16, hv % 16)
        exec .dhp s = .next { s.past lx with
          hi := { s.hi with dhp := some ⟨s.inByte (bp + 2), BitVec.ofNat 16 (s.inWord (bp + 3)),
            BitVec.ofNat 16 (s.inWord (bp + 5)), comps⟩ }
          arena := { s.arena with layout := { s.arena.layout with dhpOff := some s.sq.moff } }
          regs := { s.regs with info := s.regs.info ||| 8 } }) ∧
      (lx < 8 ∨ lx ≠ 8 + 3 * nf → exec .dhp s = .next (failEntry .formatError s)))) ∧
  (∀ s : State,
    let strayExp := s.hi.dhp = none ∧ ∃ a ∈ s.arena.layout.aux, a.marker = .exp
    (s.arena.layout.frames = [] ∨ (∃ f ∈ s.arena.layout.frames, f.scans = []) ∨ strayExp →
      exec .eoi s = .next (failEntry .formatError s)) ∧
    (s.arena.layout.frames ≠ [] → (∀ f ∈ s.arena.layout.frames, f.scans ≠ []) → ¬ strayExp →
      exec .eoi s = .next { s with sq := { s.sq with phase := .replaySof, frameIx := 0, scanIx := 0, auxPos := 0 } }))

/-- APP0, APP1 and APP14 with their identifier, before any frame and with their slot free (R211, R143): the slot, the INFO bit and, for
Exif, EXIF_OFF and EXIF_LEN; for Adobe payload byte 11 is the transform code, none in a shorter payload (log 21). COM, APP2 to APP13
and APP15, and APP0, APP1, APP14 without their identifier or after the first, are skipped: only BP moves, past the segment (R212). In
these and in a table marker of the layout scan a segment whose length is below 2 or that ends beyond IN_LEN is a FormatError (R131,
R202). -/
def Obligations.ApplicationAndSkippedSegments : Prop :=
  (∀ (s : State) (lx : Nat), s.segmentAt lx →
    (s.appHit lx jfifIdent s.arena.layout.jfifOff → exec .app0 s = .next { s.past lx with
      arena := { s.arena with layout := { s.arena.layout with jfifOff := some s.sq.moff } }
      regs := { s.regs with info := s.regs.info ||| 1 } }) ∧
    (s.appHit lx exifIdent s.arena.layout.exifOff → exec .app1 s = .next { s.past lx with
      arena := { s.arena with layout := { s.arena.layout with exifOff := some s.sq.moff } }
      regs := { s.regs with
        info := s.regs.info ||| 2
        exifOff := BitVec.ofNat 32 (s.sq.moff + 4 + 6), exifLen := BitVec.ofNat 32 (lx - 8) } }) ∧
    (s.appHit lx adobeIdent s.arena.layout.adobeOff → exec .app14 s = .next { s.past lx with
      arena := { s.arena with layout := { s.arena.layout with adobeOff := some s.sq.moff } }
      hi := { s.hi with adobeT := if lx < 14 then none else some (s.inByte (s.rd.bp + 13)) }
      regs := { s.regs with info := s.regs.info ||| 4 } })) ∧
  (∀ (i : Instr) (s : State) (lx : Nat), s.segmentAt lx →
    (isSkipped i = true ∨ (∃ p ∈ appMarkers s.arena.layout, i = p.1 ∧ ¬ s.appHit lx p.2.1 p.2.2)) →
    exec i s = .next (s.past lx)) ∧
  (∀ (i : Instr) (s : State), (isSkipped i = true ∨ i ∈ [.app0, .app1, .app14] ∨
      (s.replaying = false ∧ ∃ k ∈ auxMarkers, i = k.instr)) →
    s.readable s.rd.bp 2 → (s.inWord s.rd.bp < 2 ∨ s.inLen < s.rd.bp + s.inWord s.rd.bp) →
    exec i s = .next (failEntry .formatError s))

/-- DHT, DQT, DAC, DRI and EXP in the layout scan are recorded in AUX with their offset, and BP is past the segment (R213). A DNL is
recorded so where it has Lx = 4 and a frame whose SOF gives Y other than 0, or where it stands right behind the entropy data of the
first scan of a frame with Y = 0; anywhere else it is a FormatError (R213, R224; log 17 is the model's reading of the two, and log 35 its
choice that NL is not read here). -/
def Obligations.TableMarkersAreRecorded : Prop :=
  ∀ (k : AuxKind) (s : State) (lx : Nat), k ∈ auxMarkers → s.replaying = false → s.segmentAt lx → s.roomFor .layoutRecord →
    let recorded := (s.recorded fun l => l.addAux s.sq.moff k).past lx
    (k ≠ .dnl → exec k.instr s = .next recorded) ∧
    (k = .dnl → lx ≠ 4 ∨ s.arena.layout.frames = [] → exec .dnl s = .next (failEntry .formatError s)) ∧
    (∀ f, k = .dnl → lx = 4 → s.arena.layout.frames.getLast? = some f → s.readable (f.sofOff + 5) 2 →
      let behindFirstScan := f.scans.length = 1 ∧ s.sq.moff = s.sq.scanEnd
      (s.inWord (f.sofOff + 5) ≠ 0 ∨ behindFirstScan → exec .dnl s = .next recorded) ∧
      (s.inWord (f.sofOff + 5) = 0 → ¬ behindFirstScan → exec .dnl s = .next (failEntry .formatError s)))

/-! ### Markers replayed -/

/-- DRI, replayed (R223): Lx must be 4 and RI takes the value of the segment; 0 disables restart intervals, which leaves one interval
per scan. DNL, replayed (R224): only its length is checked, as NL counts only where it gives Y (log 17). EXP, replayed (R226): in a
hierarchical image, with Lx = 3 and both nibbles at most 1, it is kept for the next differential frame; otherwise a FormatError. -/
def Obligations.DriDnlExpReplayed : Prop :=
  ((∀ (s : State) (lx : Nat), s.replaying = true → s.segmentAt lx →
    (lx = 4 → exec .dri s = .next { s.past lx with
      tb := { s.tb with ri := BitVec.ofNat 16 (s.inWord (s.rd.bp + 2)) } }) ∧
    (lx ≠ 4 → exec .dri s = .next (failEntry .formatError s))) ∧
  ∀ units, intervalCount 0 units = 1) ∧
  (∀ (s : State) (lx : Nat), s.replaying = true → s.segmentAt lx →
    (lx = 4 → exec .dnl s = .next (s.past lx)) ∧
    (lx ≠ 4 → exec .dnl s = .next (failEntry .formatError s)) ∧
    let e := (s.inByte (s.rd.bp + 2)).toNat
    (s.hi.dhp ≠ none → lx = 3 → e / 16 ≤ 1 → e % 16 ≤ 1 →
      exec .exp s = .next { s.past lx with hi := { s.hi with exp := some (e / 16 == 1, e % 16 == 1) } }) ∧
    (s.hi.dhp = none ∨ lx ≠ 3 ∨ 1 < e / 16 ∨ 1 < e % 16 → exec .exp s = .next (failEntry .formatError s)))

/-- DAC, replayed (R222): the pairs of the payload in order; a class above 1, a slot above 3, L not below U, or Kx outside 1..63, or a
payload of odd length, is a FormatError. -/
def Obligations.DacSetsTheConditioning : Prop :=
  ∀ (s : State) (lx : Nat), s.replaying = true → s.segmentAt lx →
    (lx % 2 = 1 → exec .dac s = .next (failEntry .formatError s)) ∧
    (∀ ps : List (Byte × Byte), s.payload lx = ps.flatMap (fun p => [p.1, p.2]) →
      (∀ t, s.tb.conditions ps = some t → exec .dac s = .next { s.past lx with tb := t }) ∧
      (s.tb.conditions ps = none → exec .dac s = .next (failEntry .formatError s)))

/-- DQT, replayed (R221, R137): every definition of the payload, in order, replaces its slot by the 64 entries as they stand. After any
number of definitions, Pq above 1, Tq above 3, and a rest too short for its definition are FormatErrors. -/
def Obligations.DqtDefinesTables : Prop :=
  ∀ (s : State) (lx : Nat) (ds : List QuantDef), s.replaying = true → s.segmentAt lx → (∀ d ∈ ds, d.ok = true) →
    let t : State := { s with tb := ds.foldl Tables.define s.tb }
    (s.payload lx = ds.flatMap QuantDef.bytes → exec .dqt s = .next (t.past lx)) ∧
    ∀ (b : Byte) (rest : List Byte), s.payload lx = ds.flatMap QuantDef.bytes ++ b :: rest →
      1 < b.toNat / 16 ∨ 3 < b.toNat % 16 ∨ rest.length < 64 * (b.toNat / 16 + 1) →
      exec .dqt s = .next (failEntry .formatError t)

/-- DHT, replayed (R220, R136, R216): every definition of the payload, in order, builds its trie, allocates it, and releases the trie
it supersedes. After any number of definitions, a rest shorter than 17 bytes, Tc above 1, Th above 3, more than 256 codes, a rest too
short for them, and an overfull code are FormatErrors. That an overfull code is found before its trie is allocated, and the old trie
released after, is the model's order (log 37). -/
def Obligations.DhtDefinesTables : Prop :=
  ∀ (s t : State) (lx : Nat) (ds : List HuffDef), s.replaying = true → s.segmentAt lx → (∀ d ∈ ds, d.ok = true) →
    State.defineHuffs ds s = some t →
    (s.payload lx = ds.flatMap HuffDef.bytes → exec .dht s = .next (t.past lx)) ∧
    ∀ (b : Byte) (rest : List Byte), s.payload lx = ds.flatMap HuffDef.bytes ++ b :: rest →
      let counts := (rest.take 16).map (·.toNat)
      rest.length < 16 ∨ 1 < b.toNat / 16 ∨ 3 < b.toNat % 16 ∨ 256 < counts.sum ∨ rest.length < 16 + counts.sum ∨
        2 ^ 16 < ((List.range 16).map fun k => lget counts k 0 * 2 ^ (15 - k)).sum →
      exec .dht s = .next (failEntry .formatError t)

/-- SOFn when the frame is decoded (R218, R451). The length, Nf, X, P, the admission of lossless frames and the component fields are
checked, each with FormatError; then the lines of R224, the size checks (R107: 8*X*Y or ALLOC_BYTES from 2^32 on is ImageTooLarge) and
the planes' allocation (R106), the hierarchical checks (R471) and the choice of transfer, both with FormatError; the frame's first
scan is replayed next. An allocation of size 0 is a FormatError, one over the caller's limit ImageTooLarge, one without room OutOfMemory.
What the checks ask is FrameRules. The order between those rules, the check of Tq in a lossless frame, and readings of R107 and R451,
are the model's (log 35, 19, 6, 20). -/
def Obligations.SofDecodesAFrame : Prop :=
  ∀ (n : BitVec 4) (i : Instr) (s : State) (lx : Nat), (n, i) ∈ sofMarkers → s.replaying = true → s.segmentAt lx →
    let bp := s.rd.bp
    let nf := (s.inByte (bp + 7)).toNat
    let comps := (List.range nf).map fun k =>
      let hv := (s.inByte (bp + 9 + 3 * k)).toNat
      (s.inByte (bp + 8 + 3 * k), hv / 16, hv % 16, (s.inByte (bp + 10 + 3 * k)).toNat)
    let h : FrameHeader := ⟨(s.inByte (bp + 2)).toNat, s.inWord (bp + 3), s.inWord (bp + 5), comps⟩
    let fieldsOk : Prop := 8 ≤ lx ∧ lx = 8 + 3 * nf ∧ 1 ≤ nf ∧ nf ≤ 4 ∧ 1 ≤ h.x ∧ precisionOk n h.p = true ∧
      (sofLossless n = true → s.params.admitLossless = true) ∧ frameCompsOk comps = true
    (¬ fieldsOk → exec i s = .next (failEntry .formatError s)) ∧
    (fieldsOk → (∀ e t, resolveLines h.y s = .error (.raise e t) → exec i s = .next (failEntry e t)) ∧
      ∀ y, resolveLines h.y s = .ok (y, s) →
        let kind := Config.AllocKind.planes (n.toNat % 4) h.x y nf (comps.map fun c => (c.2.1, c.2.2.1))
        let u := (s.allocated kind).openFrame n h y
        let first (next : State) : State := { next with sq := { u.sq with phase := .replaySos, scanIx := 0 } }
        let selected := transferSelect s.params u.fr.ids s.arena.layout.jfifOff.isSome s.arena.layout.adobeOff.isSome s.hi.adobeT
        (2 ^ 32 ≤ 8 * h.x * y ∨ 2 ^ 32 ≤ allocSize s.params kind → exec i s = .next (failEntry .imageTooLarge s)) ∧
        let size := allocSize s.params kind
        let limited : Prop := s.regs.sizeLimit ≠ 0 ∧ s.regs.sizeLimit.toNat < size
        (8 * h.x * y < 2 ^ 32 → size < 2 ^ 32 →
          (size = 0 → exec i s = .next (failEntry .formatError s)) ∧
          (0 < size → limited → exec i s = .next (failEntry .imageTooLarge s)) ∧
          (0 < size → ¬ limited → s.regs.scrLen.toNat < s.arena.used + size → exec i s = .next (failEntry .outOfMemory s))) ∧
        (8 * h.x * y < 2 ^ 32 → size < 2 ^ 32 → s.roomFor kind →
          (∀ d, s.hi.dhp = some d → hierFrameOk d s.arena.acc u.fr = false →
            exec i s = .next (failEntry .formatError u)) ∧
          ((∀ d, s.hi.dhp = some d → hierFrameOk d s.arena.acc u.fr = true) →
            (s.sq.frameIx ≠ 0 → exec i s = .next (first (u.past lx))) ∧
            (∀ k, s.sq.frameIx = 0 → selected = some k →
              exec i s = .next (first { u.past lx with hi := { u.hi with transfer := some k, ids := u.fr.ids } })) ∧
            (s.sq.frameIx = 0 → selected = none → exec i s = .next (failEntry .formatError u)))))

/-- What a frame's start rests on. The precisions a process admits and the component fields (R218; Tq is checked in a lossless frame too,
log 19). The lines of a frame whose header gives 0 (R224): NL of the first DNL behind its first SOS and before the next frame, with
Lx = 4 and NL from 1 on, or a FormatError (log 17); a header's own number stands. The checks of a frame of a hierarchical image (R471),
where a DHP that names an ID twice counts with the first (log 22) and the earlier frames' components are those in ACC. The reference
decision table of TRANSFER: the first row that matches (R451). -/
def Obligations.FrameRules : Prop :=
  (∀ (n : BitVec 4) (i : Instr) (p : Nat), (n, i) ∈ sofMarkers → (precisionOk n p = true ↔
    (n = 0 ∧ p = 8) ∨ ((n.toNat % 4 = 1 ∨ n.toNat % 4 = 2) ∧ (p = 8 ∨ p = 12)) ∨ (n.toNat % 4 = 3 ∧ 2 ≤ p ∧ p ≤ 16))) ∧
  (∀ comps : List (Byte × Nat × Nat × Nat), frameCompsOk comps = true ↔
    (comps.map (·.1)).Nodup ∧ ∀ c ∈ comps, 1 ≤ c.2.1 ∧ c.2.1 ≤ 4 ∧ 1 ≤ c.2.2.1 ∧ c.2.2.1 ≤ 4 ∧ c.2.2.2 ≤ 3) ∧
  (∀ (s : State) (y : Nat), 0 < y → resolveLines y s = .ok (y, s)) ∧
  (∀ (s : State) (f : FrameRec) (r : ScanRec) (rest : List ScanRec), s.frameRec = some f → f.scans = r :: rest →
    let gives (a : AuxRec) : Prop := a.marker = .dnl ∧ r.sosOff < a.off ∧
      ∀ g, s.arena.layout.frames[s.sq.frameIx + 1]? = some g → a.off < g.sofOff
    ((∀ a ∈ s.arena.layout.aux, ¬ gives a) → resolveLines 0 s = .error (.raise .formatError s)) ∧
    ∀ (k : Nat) (a : AuxRec), s.arena.layout.aux[k]? = some a → gives a →
      (∀ j < k, ∀ b, s.arena.layout.aux[j]? = some b → ¬ gives b) → s.readable (a.off + 2) 4 →
      let nl := s.inWord (a.off + 4)
      (s.inWord (a.off + 2) = 4 → 0 < nl → resolveLines 0 s = .ok (nl, s)) ∧
      (s.inWord (a.off + 2) ≠ 4 ∨ nl = 0 → resolveLines 0 s = .error (.raise .formatError s))) ∧
  (∀ (d : Dhp) (acc : List AccPlane) (f : Frame), hierFrameOk d acc f = true ↔
    (∀ c < f.nf.toNat,
      (∃ e, d.comps.find? (fun e => e.1 == (f.compAt c).id) = some e ∧ e.2.1 = f.hOf c ∧ e.2.2 = f.vOf c) ∧
      ((∃ a ∈ acc, a.id = (f.compAt c).id) ↔ f.ft.getLsbD 2 = true)) ∧
    f.p.toNat = d.p.toNat ∧ f.x.toNat ≤ d.x.toNat ∧ f.y.toNat ≤ d.y.toNat) ∧
  (∀ (params : Config.Params) (ids : List Byte) (jfif adobe : Bool) (code : Option Byte), params.transfer = .reference →
    let nf := ids.length
    let rows : List (Bool × Config.TransferKind) :=
      [(nf == 1, .gray), (nf == 2, .grayAlpha), (nf == 3 && adobe && code == some 0, .rgb),
       (ids == [0x52, 0x47, 0x42], .rgb), (ids == [0x42, 0x47, 0x52], .bgr),
       (nf == 3 && (adobe && code == some 1 || jfif || ids == [1, 2, 3] || ids == [0, 1, 2]), .ycbcr),
       (nf == 4 && adobe && code == some 2, .ycck), (nf == 4 && adobe && code == some 0, .cmyk),
       (ids == [0x52, 0x47, 0x42, 0x41], .rgba), (ids == [0x41, 0x42, 0x47, 0x52], .abgr)]
    transferSelect params ids jfif adobe code = (rows.find? (·.1)).map (·.2))

/-- What a decoded frame header leaves (R218, R38, R39, R45, R49): FT, P, X, Y, NF, HMAX, VMAX and the component fields; planes of the
sizes of R45, every coefficient and sample 0; coverage none; INFO; the image size unless hierarchical. -/
def Obligations.FrameHeaderFields : Prop :=
  ∀ (s : State) (n : BitVec 4) (h : FrameHeader) (y : Nat), 1 ≤ h.comps.length → h.comps.length ≤ 4 → h.p ≤ 16 →
    1 ≤ h.x → h.x < 65536 → 1 ≤ y → y < 65536 → frameCompsOk h.comps = true →
    let t := s.openFrame n h y
    t.fr.ft = n ∧ t.fr.p.toNat = h.p ∧ t.fr.x.toNat = h.x ∧ t.fr.y.toNat = y ∧ t.fr.nf.toNat = h.comps.length ∧
    (∀ k c, h.comps[k]? = some c →
      (t.fr.compAt k).id = c.1 ∧ t.fr.hOf k = c.2.1 ∧ t.fr.vOf k = c.2.2.1 ∧ (t.fr.compAt k).tq.toNat = c.2.2.2 ∧
      c.2.1 ≤ t.fr.hmax.toNat ∧ c.2.2.1 ≤ t.fr.vmax.toNat ∧
      (sofLossless n = false →
        let bw := ceilDiv h.x (8 * t.fr.hmax.toNat) * c.2.1
        let bh := ceilDiv y (8 * t.fr.vmax.toNat) * c.2.2.1
        t.plane k = some (.dct bw bh (List.replicate (bw * bh) (Vector.replicate 64 0)))) ∧
      (sofLossless n = true →
        let sw := ceilDiv h.x t.fr.hmax.toNat * c.2.1
        let sh := ceilDiv y t.fr.vmax.toNat * c.2.2.1
        t.plane k = some (.lossless sw sh (List.replicate ((sw + 1) * (sh + 1)) 0)))) ∧
    (∃ c ∈ h.comps, t.fr.hmax.toNat = c.2.1) ∧ (∃ c ∈ h.comps, t.fr.vmax.toNat = c.2.2.1) ∧
    (∀ c k, coverAt t.tb.cover c k = none) ∧
    t.regs.info.extractLsb' 4 4 = n ∧ (t.regs.info.extractLsb' 8 3).toNat = h.comps.length ∧
    (t.regs.info.extractLsb' 16 5).toNat = h.p ∧ t.regs.info.extractLsb' 0 4 = s.regs.info.extractLsb' 0 4 ∧
    (s.hi.dhp = none → t.regs.imgWidth.toNat = h.x ∧ t.regs.imgHeight.toNat = y) ∧
    (s.hi.dhp ≠ none → t.regs.imgWidth = s.regs.imgWidth ∧ t.regs.imgHeight = s.regs.imgHeight)

/-- The scan header (R219, R135): Lx = 6 + 2 Ns with Ns in 1..4, components of the frame in frame order, table selectors at most 3, Ss
and Se at most 63 (log 23), and at most 10 blocks in an interleaved unit, or a FormatError; it leaves NS, SC, SS, SE, AH, AL and the
selectors of its components, and nothing else. The scan parameters a process admits (R255), and the error where a parsed header has
none of them. -/
def Obligations.ScanParameters : Prop :=
  (∀ (s : State) (lx : Nat), s.segmentAt lx → s.fr.nf.toNat ≤ 4 → s.fr.ids.Nodup →
    let bp := s.rd.bp
    let ns := (s.inByte (bp + 2)).toNat
    let tables (j : Nat) : Nat := (s.inByte (bp + 4 + 2 * j)).toNat
    let ss := (s.inByte (bp + 3 + 2 * ns)).toNat
    let se := (s.inByte (bp + 4 + 2 * ns)).toNat
    let a := (s.inByte (bp + 5 + 2 * ns)).toNat
    let selects (cs : List Nat) : Prop := cs.length = ns ∧ cs.Pairwise (· < ·) ∧ ∀ j c, cs[j]? = some c →
      c < s.fr.nf.toNat ∧ (s.fr.compAt c).id = s.inByte (bp + 3 + 2 * j) ∧ tables j / 16 ≤ 3 ∧ tables j % 16 ≤ 3
    let lengthOk : Prop := 3 ≤ lx ∧ lx = 6 + 2 * ns ∧ 1 ≤ ns ∧ ns ≤ 4
    let fits (cs : List Nat) : Prop := 1 < ns → (cs.map fun c => s.fr.hOf c * s.fr.vOf c).sum ≤ 10
    (¬ lengthOk ∨ 63 < ss ∨ 63 < se ∨ (¬ ∃ cs, selects cs ∧ fits cs) →
      parseScanHeader s = .error (.raise .formatError s)) ∧
    (∀ cs, lengthOk → ss ≤ 63 → se ≤ 63 → selects cs → fits cs →
      ∃ t, parseScanHeader s = .ok ((), t) ∧ t = { s.past lx with fr := t.fr, sc := t.sc } ∧
        t.sc = { s.sc with ns := t.sc.ns, sc := t.sc.sc, ss := t.sc.ss, se := t.sc.se, ah := t.sc.ah, al := t.sc.al } ∧
        t.sc.ns.toNat = ns ∧ t.sc.comps = cs ∧ t.sc.ss.toNat = ss ∧ t.sc.se.toNat = se ∧
        t.sc.ah.toNat = a / 16 ∧ t.sc.al.toNat = a % 16 ∧
        t.fr = { s.fr with comp := t.fr.comp } ∧
        (∀ j c, cs[j]? = some c → t.fr.compAt c = { s.fr.compAt c with td := (t.fr.compAt c).td, ta := (t.fr.compAt c).ta } ∧
          (t.fr.compAt c).td.toNat = tables j / 16 ∧ (t.fr.compAt c).ta.toNat = tables j % 16) ∧
        (∀ c, c ∉ cs → t.fr.compAt c = s.fr.compAt c))) ∧
  (∀ (n : BitVec 4) (p ns ss se ah al : Nat), scanParamsOk n p ns ss se ah al = true ↔
    (n.toNat % 4 ≤ 1 ∧ ss = 0 ∧ se = 63 ∧ ah = 0 ∧ al = 0) ∨
    (n.toNat % 4 = 2 ∧ ss ≤ se ∧ se ≤ 63 ∧ (ss = 0 → se = 0) ∧ (0 < ss → ns = 1) ∧ (ah = 0 ∨ al + 1 = ah) ∧ al ≤ 13) ∨
    (n.toNat % 4 = 3 ∧ (n.getLsbD 2 = false → 1 ≤ ss ∧ ss ≤ 7) ∧ (n.getLsbD 2 = true → ss = 0) ∧ se = 0 ∧ ah = 0 ∧
      al < p)) ∧
  ∀ s u : State, s.replaying = true → parseScanHeader s = .ok ((), u) →
    scanParamsOk u.fr.ft u.fr.p.toNat u.sc.ns.toNat u.sc.ss.toNat u.sc.se.toNat u.sc.ah.toNat u.sc.al.toNat = false →
    exec .sos s = .next (failEntry .formatError u)

/-- The start of a scan, behind its header (R227, R225, R252, R250, R251, R254, R258, R407). A component whose Huffman or quantization
table is missing is a FormatError; at its first scan of a DCT frame its quantization table is latched. The reference tables are
installed for a Huffman scan where the file has no DHT, once. Then a lossless scan's RI must fit its rows, MCUD and NUNITS are set, the
number of intervals must be NI, and the first interval is entered next. NUNITS is MCUX * MCUY in an interleaved scan (R250), the blocks
of the component in a scan of one (R251), and counted in samples in a lossless frame (R254). The order of these is the model's (log 38),
that MCUD needs no allocation of R106 is too (log 5), and so are the component's point transform, AL of its scan (log 24), and the one flag for `seen` (log 32). -/
def Obligations.ScanStart : Prop :=
  (∀ (s : State) (c : Nat), let k := s.fr.compAt c
    let huffman := s.fr.ft.getLsbD 3 = false
    let progressive := s.fr.ft.toNat % 4 = 2
    let lossless := s.fr.ft.toNat % 4 = 3
    let first := ¬ lossless ∧ vget s.fr.seen c false = false
    let missing : Prop :=
      (huffman ∧ (progressive → s.sc.ss = 0 ∧ s.sc.ah = 0) ∧ vget s.arena.dcTables k.td.toNat none = none) ∨
      (huffman ∧ ¬ lossless ∧ (progressive → s.sc.ss ≠ 0) ∧ vget s.arena.acTables k.ta.toNat none = none) ∨
      (first ∧ vget s.tb.qt k.tq.toNat none = none)
    (missing → claimComp c s = .error (.raise .formatError s)) ∧
    (¬ missing → ∃ ql, claimComp c s = .ok ((), { s with
        fr := { s.fr with seen := vset s.fr.seen c true, pt := vset s.fr.pt c s.sc.al }, tb := { s.tb with ql := ql } }) ∧
      (¬ first → ql = s.tb.ql) ∧ (first → ql = vset s.tb.ql c (vget s.tb.qt k.tq.toNat none)))) ∧
  (∀ s : State, let skip := s.fr.ft.getLsbD 3 = true ∨ s.tb.defaultHt = true ∨ ∃ a ∈ s.arena.layout.aux, a.marker = .dht
    (skip → installReference s = .ok ((), s)) ∧
    (∀ t, ¬ skip → installReference s = .ok ((), t) →
      t = { s with arena := { s.arena with used := t.arena.used, dcTables := t.arena.dcTables, acTables := t.arena.acTables },
                   tb := { s.tb with defaultHt := true } } ∧
      (∀ cls i codes, (cls, i, codes) ∈ [(0, 0, buildTrie refDcLumaBits refDcLumaVals), (1, 0, buildTrie refAcLumaBits refAcLumaVals),
          (0, 1, buildTrie refDcChromaBits refDcChromaVals), (1, 1, buildTrie refAcChromaBits refAcChromaVals)] →
        (t.arena.slot cls i).map (·.codes) = codes) ∧
      (∀ cls i, 2 ≤ i → t.arena.slot cls i = s.arena.slot cls i))) ∧
  (∀ s u v w z : State, s.replaying = true → parseScanHeader s = .ok ((), u) →
    scanParamsOk u.fr.ft u.fr.p.toNat u.sc.ns.toNat u.sc.ss.toNat u.sc.se.toNat u.sc.ah.toNat u.sc.al.toNat = true →
    forComps coverComp u.sc.comps u = .ok ((), v) → installReference v = .ok ((), w) →
    forComps claimComp u.sc.comps w = .ok ((), z) →
    let lossless := z.fr.ft.toNat % 4 = 3
    let c := z.sc.compOf 0
    let xc := ceilDiv (z.fr.x.toNat * z.fr.hOf c) z.fr.hmax.toNat
    let yc := ceilDiv (z.fr.y.toNat * z.fr.vOf c) z.fr.vmax.toNat
    let cols := if 1 < z.sc.ns.toNat then ceilDiv z.fr.x.toNat (if lossless then z.fr.hmax.toNat else 8 * z.fr.hmax.toNat)
      else if lossless then xc else ceilDiv xc 8
    let rows := if 1 < z.sc.ns.toNat then ceilDiv z.fr.y.toNat (if lossless then z.fr.vmax.toNat else 8 * z.fr.vmax.toNat)
      else if lossless then yc else ceilDiv yc 8
    let rowsOk : Prop := lossless → z.tb.ri.toNat = 0 ∨ z.tb.ri.toNat % cols = 0
    let units := cols * rows
    let ni := if z.tb.ri.toNat = 0 then 1 else ceilDiv units z.tb.ri.toNat
    let mcud : List McuEntry :=
      if 1 < z.sc.ns.toNat then (List.range z.sc.ns.toNat).flatMap fun j =>
        (List.range (z.fr.vOf (z.sc.compOf j))).flatMap fun dy => (List.range (z.fr.hOf (z.sc.compOf j))).map fun dx => ⟨j, dx, dy⟩
      else [⟨0, 0, 0⟩]
    let t : State := { z with
      sc := { z.sc with mcud := mcud, nunits := units, unit := 0, entry := 0, intv := 0, ni := ni }
      sq := { z.sq with phase := .interval } }
    (¬ rowsOk → exec .sos s = .next (failEntry .formatError z)) ∧
    (∀ r, rowsOk → z.scanRec = some r →
      (r.intervals.length = ni → exec .sos s = .next t) ∧
      (r.intervals.length ≠ ni → exec .sos s = .next (failEntry .formatError t))))

/-- The coverage rule at a scan's start (R256): in a DCT frame every coefficient of the band must be new (AH = 0) or at bit AH, and DC
must have begun before AC; then the band is at bit AL and nothing else of the record changes; in a lossless frame no earlier scan
contained the component. -/
def Obligations.CoverageRule : Prop :=
  ∀ (s : State) (c : Nat), c < 4 →
    let ss := s.sc.ss.toNat
    let se := s.sc.se.toNat
    let ah := s.sc.ah.toNat
    let old := coverAt s.tb.cover
    let fits := ∀ k, ss ≤ k → k ≤ se →
      (if ah = 0 then old c k = none else old c k = some ah) ∧ (0 < ss → old c 0 ≠ none)
    (s.fr.isLossless = false → fits → ∃ cover, coverComp c s = .ok ((), { s with tb := { s.tb with cover := cover } }) ∧
      ∀ c' k, c' < 4 → k < 64 → coverAt cover c' k =
        if c' = c ∧ ss ≤ k ∧ k ≤ se then some s.sc.al.toNat else old c' k) ∧
    (s.fr.isLossless = false → ¬ fits → coverComp c s = .error (.raise .formatError s)) ∧
    (s.fr.isLossless = true → vget s.fr.seen c false = false → coverComp c s = .ok ((), s)) ∧
    (s.fr.isLossless = true → vget s.fr.seen c false = true → coverComp c s = .error (.raise .formatError s))

/-- Restart intervals partition the units of a scan (R258): interval i holds the units from i*RI to min((i+1)*RI, NUNITS) - 1, all
units where RI = 0; every unit is in exactly one of the NI intervals. -/
def Obligations.IntervalsPartitionTheUnits : Prop :=
  ∀ (s : State) (u : Nat), u < s.sc.nunits →
    let ri := s.tb.ri.toNat
    let at' (i : Nat) : State := { s with sc := { s.sc with intv := i } }
    (∀ i, (at' i).firstUnit = i * ri) ∧
    (∀ i, (at' i).endUnit = if ri = 0 then s.sc.nunits else min ((i + 1) * ri) s.sc.nunits) ∧
    (∃ i < intervalCount ri s.sc.nunits, (at' i).firstUnit ≤ u ∧ u < (at' i).endUnit) ∧
    (∀ i j, i < intervalCount ri s.sc.nunits → j < intervalCount ri s.sc.nunits →
      (at' i).firstUnit ≤ u → u < (at' i).endUnit → (at' j).firstUnit ≤ u → u < (at' j).endUnit → i = j)

/-- Every block a DCT scan visits lies in its plane (R250, R251, R253, R45): in an interleaved scan for every unit and descriptor
entry, in a scan of one component for every unit. -/
def Obligations.BlocksLieInTheirPlane : Prop :=
  ∀ (s : State) (e : McuEntry), s.fr.isLossless = false → 1 ≤ s.fr.hmax.toNat → 1 ≤ s.fr.vmax.toNat →
    e ∈ s.mcuEntries → s.sc.unit < s.unitCount →
    let a := s.addressOf e
    a.c = s.sc.compOf e.j ∧
    a.x < ceilDiv s.fr.x.toNat (8 * s.fr.hmax.toNat) * s.fr.hOf a.c ∧
    a.y < ceilDiv s.fr.y.toNat (8 * s.fr.vmax.toNat) * s.fr.vOf a.c

/-! ### Huffman codes -/

/-- Extend (R294) and the magnitude categories (R155): for s bits, Extend maps the 2^s values one to one onto the values of category s,
and the extra bits of a value give it back. -/
def Obligations.ExtendIsTheCategoryCode : Prop :=
  (∀ v s : Nat, extend v s = if s = 0 then 0 else if v < 2 ^ (s - 1) then (v : Int) - 2 ^ s + 1 else (v : Int)) ∧
  ∀ s : Nat, 1 ≤ s → s ≤ 15 →
    (∀ v < 2 ^ s, ((-(2 ^ s - 1 : Int) ≤ extend v s ∧ extend v s ≤ -(2 : Int) ^ (s - 1)) ∨
        ((2 : Int) ^ (s - 1) ≤ extend v s ∧ extend v s ≤ 2 ^ s - 1)) ∧ extraBits (extend v s) s = v) ∧
    (∀ x : Int, (-(2 ^ s - 1 : Int) ≤ x ∧ x ≤ -(2 : Int) ^ (s - 1)) ∨ ((2 : Int) ^ (s - 1) ≤ x ∧ x ≤ 2 ^ s - 1) →
      extraBits x s < 2 ^ s ∧ extend (extraBits x s) s = x)

/-- NextBit (R291): bit 7 of a byte first; 0xFF takes its stuffed 0x00 with it; no byte left in the interval is a FormatError. ByteIn
(R343): past the interval ZFILL is set and 0 is supplied; otherwise the byte at BP, and 0xFF takes its stuffed 0x00 with it. -/
def Obligations.ByteReaders : Prop :=
  (∀ s : State,
    (s.rd.bitCnt = 0 → s.rd.segEnd ≤ s.rd.bp → nextBit s = .error (.raise .formatError s)) ∧
    (s.rd.bitCnt = 0 → s.rd.bp < s.rd.segEnd → s.readable s.rd.bp 1 →
      let b := s.inByte s.rd.bp
      nextBit s = .ok (b.getLsbD 7, { s with rd := { s.rd with
        bp := s.rd.bp + (if b = 0xFF then 2 else 1), bitBuf := b, bitCnt := 7 } })) ∧
    (s.rd.bitCnt ≠ 0 → nextBit s = .ok (s.rd.bitBuf.getLsbD (s.rd.bitCnt - 1),
      { s with rd := { s.rd with bitCnt := s.rd.bitCnt - 1 } }))) ∧
  (∀ s : State,
    (s.rd.segEnd ≤ s.rd.bp → byteIn s = .ok (0, { s with qm := { s.qm with zfill := true } })) ∧
    (s.rd.bp < s.rd.segEnd → s.readable s.rd.bp 1 →
      let b := s.inByte s.rd.bp
      byteIn s = .ok (b, { s with rd := { s.rd with bp := s.rd.bp + (if b = 0xFF then 2 else 1) } })))

/-- BuildTrie (R290, R152): where it succeeds, the symbols of the list get canonical codes in order, by rising length: as many of each
length as the list says, the first one 0, each next one the code before it plus 1, shifted left where it is longer. Every code fits its
length, and no codeword is a prefix of a later one, so the code is prefix-free. -/
def Obligations.BuildTriePrefixFree : Prop :=
  ∀ (bits : List Nat) (vals : List Byte) (codes : List Code), buildTrie bits vals = some codes →
    codes.map (·.sym) = vals.take bits.sum ∧ codes.length = bits.sum ∧
    (∀ c ∈ codes, 1 ≤ c.len ∧ c.len ≤ bits.length ∧ c.code < 2 ^ c.len) ∧
    (∀ len, 1 ≤ len → len ≤ bits.length → (codes.filter fun c => c.len == len).length = lget bits (len - 1) 0) ∧
    (∀ c, codes.head? = some c → c.code = 0) ∧
    (∀ k c d, codes[k]? = some c → codes[k + 1]? = some d → d.code = (c.code + 1) * 2 ^ (d.len - c.len)) ∧
    codes.Pairwise fun a b => a.len ≤ b.len ∧ b.code / 2 ^ (b.len - a.len) ≠ a.code

/-- Receive (R293): from bits that are in BITBUF it takes the next ones as a number, first bit most significant; and receiving m + n
bits is receiving m, then n, the m first ones above. DecodeHuff (R292): where the next bits are a codeword of the table it returns that
symbol and reads exactly those bits; an undefined table is a FormatError. -/
def Obligations.ReceiveAndDecodeHuff : Prop :=
  ((∀ (n : Nat) (s : State), n ≤ s.rd.bitCnt →
    receive n s = .ok (s.rd.bitBuf.toNat / 2 ^ (s.rd.bitCnt - n) % 2 ^ n,
      { s with rd := { s.rd with bitCnt := s.rd.bitCnt - n } })) ∧
  ∀ (m n v w : Nat) (s t u : State), receive m s = .ok (v, t) → receive n t = .ok (w, u) →
    receive (m + n) s = .ok (v * 2 ^ n + w, u)) ∧
  (∀ s : State, decodeHuff none s = .error (.raise .formatError s)) ∧
  ∀ (bits : List Nat) (vals : List Byte) (table : HuffTable) (c : Code) (s t : State), bits.length = 16 →
    buildTrie bits vals = some table.codes → c ∈ table.codes → receive c.len s = .ok (c.code, t) →
    decodeHuff (some table) s = .ok (c.sym, t)

/-- A DC category symbol (R153, R301): the extra bits, the difference, PRED of the component unless the frame is differential, and the
value shifted by AL in `blk[0]`; a sequential block goes on with its AC symbols, any other is complete. The value is in range
(R548); the shifted value is checked too, which is the model's reading (log 26). -/
def Obligations.DcCategorySymbol : Prop :=
  ∀ (t : BitVec 4) (s u : State) (b : OpenBlock) (blk : Block) (v : Nat), s.sq.block = some b →
    receive t.toNat s = .ok (v, u) → s.block? b.addr = some blk →
    let diff := extend v t.toNat
    let val := if s.fr.ft.getLsbD 2 then diff else vget s.pr.pred b.addr.c 0 + diff
    inInt32 val = true → inInt32 (val * 2 ^ s.sc.al.toNat) = true →
    exec (.dcCategory t) s = .next { (u.withBlock b.addr (vset blk 0 (val * 2 ^ s.sc.al.toNat))) with
      pr := if s.fr.ft.getLsbD 2 then u.pr else { u.pr with pred := vset u.pr.pred b.addr.c val }
      sq := { u.sq with block := if b.mode = .seq then some { b with k := 1, stage := .ac } else none } }

/-- The AC symbols of a sequential block (R302) and of a first scan (R314): EOB, EOBn, ZRL and a coefficient, with the position checks;
`stop` is the last coefficient of the band. -/
def Obligations.AcSymbolsOfAFirstPass : Prop :=
  ∀ (s : State) (b : OpenBlock), s.sq.block = some b → b.mode = .seq ∨ b.mode = .first →
    let stop := if b.mode = .seq then 63 else s.sc.se.toNat
    let on (k : Nat) : Option OpenBlock := if k ≤ stop then some { b with k := k } else none
    (b.mode = .seq → exec .eob s = .next { s with sq := { s.sq with block := none } }) ∧
    (b.mode = .first → exec .eob s = .next { s with
      pr := { s.pr with eobrun := 0 }, sq := { s.sq with block := none } }) ∧
    (∀ r, wfEobn r = true → b.mode = .seq → exec (.eobn r) s = .next (failEntry .formatError s)) ∧
    (∀ r v u, b.mode = .first → receive r.toNat s = .ok (v, u) → exec (.eobn r) s = .next { u with
      pr := { u.pr with eobrun := 2 ^ r.toNat + v - 1 }, sq := { u.sq with block := none } }) ∧
    (b.k + 16 ≤ stop + 1 → exec .zrl s = .next { s with sq := { s.sq with block := on (b.k + 16) } }) ∧
    (stop + 1 < b.k + 16 → exec .zrl s = .next (failEntry .formatError s)) ∧
    (∀ r sz, stop < b.k + r.toNat → exec (.acCoeff r sz) s = .next (failEntry .formatError s)) ∧
    (∀ r sz v u blk, b.k + r.toNat ≤ stop → receive sz.toNat s = .ok (v, u) → s.block? b.addr = some blk →
      let k := b.k + r.toNat
      let val := if b.mode = .seq then extend v sz.toNat else extend v sz.toNat * 2 ^ s.sc.al.toNat
      inInt32 val = true →
      exec (.acCoeff r sz) s = .next { (u.withBlock b.addr (vset blk k val)) with
        sq := { u.sq with block := on (k + 1) } })

/-- The AC symbols of a refinement scan (R316, R295): an end-of-band symbol corrects the rest of the band, ZRL skips 16 zero-history
coefficients and may run off the band, a coefficient needs S = 1 and a zero position left. -/
def Obligations.AcSymbolsOfARefinement : Prop :=
  ∀ (s : State) (b : OpenBlock) (blk : Block), s.sq.block = some b → b.mode = .refine → s.block? b.addr = some blk →
    let se := s.sc.se.toNat
    let p1 : Int := 2 ^ s.sc.al.toNat
    let on (k : Nat) : Option OpenBlock := if k ≤ se then some { b with k := k } else none
    (∀ blk' u, Rule.eobPass p1 se 64 b.k blk s = .ok (blk', u) → exec .eob s = .next { (u.withBlock b.addr blk') with
      pr := { u.pr with eobrun := 0 }, sq := { u.sq with block := none } }) ∧
    (∀ r v u blk' w, receive r.toNat s = .ok (v, u) → Rule.eobPass p1 se 64 b.k blk u = .ok (blk', w) →
      exec (.eobn r) s = .next { (w.withBlock b.addr blk') with
        pr := { w.pr with eobrun := 2 ^ r.toNat + v - 1 }, sq := { w.sq with block := none } }) ∧
    (∀ k blk' u, Rule.skipZeros p1 se 64 b.k 15 blk s = .ok ((k, blk'), u) →
      exec .zrl s = .next { (u.withBlock b.addr blk') with sq := { u.sq with block := on (k + 1) } }) ∧
    (∀ r sz, sz ≠ 1 → exec (.acCoeff r sz) s = .next (failEntry .formatError s)) ∧
    (∀ r bit u k blk' w, nextBit s = .ok (bit, u) → Rule.skipZeros p1 se 64 b.k r.toNat blk u = .ok ((k, blk'), w) →
      (k ≤ se → exec (.acCoeff r 1) s = .next { (w.withBlock b.addr (vset blk' k (if bit then p1 else -p1))) with
        sq := { w.sq with block := on (k + 1) } }) ∧
      (se < k → exec (.acCoeff r 1) s = .next (failEntry .formatError w)))

/-! ### Routines -/

/-- HUF_SEQ is DecodeDC and DecodeACSeq (R300, R301, R302) on the addressed block, symbol by symbol or held aside: the same errors, and
the same next state where the procedure ends. That DecodeDC checks the shifted value for Overflow too is the model's reading (log 26). -/
def Obligations.HufSeqRoutine : Prop :=
  ∀ (d x : Bool) (s : State) (e : McuEntry) (blk : Block), s.sc.mcud[s.sc.entry]? = some e → s.sq.block = none →
    s.block? (s.addressOf e) = some blk →
    exec (.hufSeq d x) s = runAct (Rule.hufSeq (s.addressOf e)) s ∧
    ∀ t, Rule.hufSeq (s.addressOf e) s = .ok ((), t) → exec (.hufSeq d x) s = .next t

/-- HUF_DC_FIRST is DecodeDC (R310), and HUF_AC_FIRST the procedure of R314, on the addressed block: the same errors, and the same next
state where the procedure ends. HUF_AC_REFINE is the procedure of R316 on the addressed block; HUF_DC_REFINE (R312) sets bit AL of
`blk[0]` where the next bit is 1 and otherwise keeps it. That DecodeDC checks the shifted value for Overflow too is the model's reading
(log 26). -/
def Obligations.HufProgressiveRoutines : Prop :=
  (∀ (d : Bool) (s : State) (e : McuEntry) (blk : Block), s.sc.mcud[s.sc.entry]? = some e → s.sq.block = none →
    s.block? (s.addressOf e) = some blk →
    exec (.hufDcFirst d) s = runAct (Rule.hufDcFirst (s.addressOf e)) s ∧
    exec (.hufAcFirst d) s = runAct (Rule.hufAcFirst (s.addressOf e)) s ∧
    (∀ t, Rule.hufDcFirst (s.addressOf e) s = .ok ((), t) → exec (.hufDcFirst d) s = .next t) ∧
    (∀ t, Rule.hufAcFirst (s.addressOf e) s = .ok ((), t) → exec (.hufAcFirst d) s = .next t) ∧
    (0 < s.pr.eobrun → exec (.hufAcFirst d) s = .next { s with pr := { s.pr with eobrun := s.pr.eobrun - 1 } })) ∧
  (∀ (d : Bool) (s : State) (e : McuEntry) (blk : Block), s.sc.mcud[s.sc.entry]? = some e → s.sq.block = none →
    s.block? (s.addressOf e) = some blk →
    exec (.hufAcRefine d) s = runAct (Rule.hufAcRefine (s.addressOf e)) s ∧
    (∀ t, Rule.hufAcRefine (s.addressOf e) s = .ok ((), t) → exec (.hufAcRefine d) s = .next t) ∧
    ∀ bit u, nextBit s = .ok (bit, u) →
      let v := vget blk 0 0
      let p1 : Int := 2 ^ s.sc.al.toNat
      exec (.hufDcRefine d) s = .next
        (if bit then u.withBlock (s.addressOf e) (vset blk 0 (if v / p1 % 2 = 1 then v else v + p1)) else u))

/-- Store (R404, R405, R406, R412): the sample is (Px + diff) mod 2^16 with the prediction of its position, and the difference becomes
LDA of the component, in the sample's row of its unit (log 39), and LDB of the column. The lossless symbol and the two lossless routines
(R156, R400, R420) take the difference from the extra bits or the decision tree and store it so; LDA of the row is 0 before a sample at
x = 0 (R412). -/
def Obligations.LosslessInstructions : Prop :=
  let row (s : State) (a : Address) : Nat := a.y % s.fr.vOf a.c
  let withLeft (s : State) (a : Address) (v : Int) : State := { s with
    pr := { s.pr with lda := vset s.pr.lda a.c (vset (vget s.pr.lda a.c (Vector.replicate 4 0)) (row s a) v) } }
  (∀ (s : State) (a : Address) (diff px : Int), s.sample? a ≠ none → s.predicts a px →
    storeSample a diff s = .ok ((), let t := withLeft (s.withSample a (BitVec.ofInt 16 (px + diff))) a diff
      { t with pr := { t.pr with ldb := vset s.pr.ldb a.c ((vget s.pr.ldb a.c []).set a.x diff) } })) ∧
  ((∀ (t : BitVec 4) (s u w : State) (b : OpenBlock) (v : Nat), s.sq.block = some b → receive t.toNat s = .ok (v, u) →
    storeSample b.addr (extend v t.toNat) u = .ok ((), w) →
    exec (.losslessDiff t) s = .next { w with sq := { w.sq with block := none } }) ∧
  ∀ (d : Bool) (s : State) (e : McuEntry), s.sc.mcud[s.sc.entry]? = some e → s.sq.block = none →
    let a := s.addressOf e
    let s0 : State := if a.x = 0 then withLeft s a 0 else s
    exec (.hufLossless d) s = runAct (Rule.hufLossless a) s ∧
    (∀ t, Rule.hufLossless a s = .ok ((), t) → exec (.hufLossless d) s = .next t) ∧
    (∀ diff u t,
      let da := vget (vget s0.pr.lda a.c (Vector.replicate 4 0)) (row s a) 0
      let c := llArithCtx s.params da (lget (vget s0.pr.ldb a.c []) a.x 0) (s.condL a.c) (s.condU a.c)
      decodeDiffLl (s.fr.compAt a.c).td.toNat c.1 c.2 s0 = .ok (diff, u) → storeSample a diff u = .ok ((), t) →
      exec (.ariLossless d) s = .next t))

/-- ArithDecode (R344, R346, R341, R347): from registers within their bounds and a valid bin it always returns a decision, never an
error; A, C and CT stay within the bounds of R346, the bin stays valid, every other bin is kept, and FIXED changes no bin. The decision
from a renormalised A (R344): in the lower or the upper sub-interval, with the conditional exchange, the MPS or the LPS, the new A and C
and the bin's new byte. The renormalisation before it, one doubling at a time, with the two start bytes (R342) and a byte where CT runs
out. QE_TABLE (R340), and a bin reads back as it was set (R341). -/
def Obligations.ArithDecodeKeepsItsBounds : Prop :=
  (∀ (s : State) (bin : Bin), s.qm.ok → s.st.ok → binValid (s.st.binByte bin) = true → s.rd.segEnd ≤ s.inLen →
    ∃ b t, arithDecode bin s = .ok (b, t) ∧ t.qm.ok ∧ t.st.ok ∧ 1 ≤ t.qm.a.toNat ∧ binValid (t.st.binByte bin) = true ∧
      t.rd.segEnd = s.rd.segEnd ∧ t.inLen = s.inLen ∧ (∀ bin', bin' ≠ bin → t.st.binByte bin' = s.st.binByte bin') ∧
      (bin = .fixed → t.st = s.st)) ∧
  (∀ (s : State) (bin : Bin), 0x8000 ≤ s.qm.a.toNat →
    let sv := s.st.binByte bin
    let row := lget qeTable (sv.toNat % 128) ⟨0, 0, 0, false⟩
    let mps := sv.getLsbD 7
    let a := s.qm.a.toNat - row.qe
    let c := s.qm.c.toNat
    let t := a * 2 ^ s.qm.ct.toNat
    let onMps : Byte := BitVec.ofNat 8 (row.nmps + if mps then 128 else 0)
    let onLps : Byte := BitVec.ofNat 8 (row.nlps + if mps != row.switch then 128 else 0)
    let gives (bit : Bool) (a c : Nat) (new : Byte) : Prop := arithDecode bin s = .ok (bit, { s with
      qm := { s.qm with a := BitVec.ofNat 17 a, c := BitVec.ofNat 32 c }, st := s.st.setBin bin new })
    (t ≤ c → a < row.qe → gives mps row.qe (c - t) onMps) ∧
    (t ≤ c → row.qe ≤ a → gives (!mps) row.qe (c - t) onLps) ∧
    (c < t → a < 0x8000 → a < row.qe → gives (!mps) a c onLps) ∧
    (c < t → a < 0x8000 → row.qe ≤ a → gives mps a c onMps) ∧
    (c < t → 0x8000 ≤ a → gives mps a c sv)) ∧
  (∀ (s : State) (bin : Bin), s.qm.ok → s.qm.a.toNat < 0x8000 →
    let doubled : BitVec 17 := BitVec.ofNat 17 (2 * s.qm.a.toNat)
    (s.qm.a = 0 → ∀ b b' u v, byteIn s = .ok (b, u) → byteIn u = .ok (b', v) →
      arithDecode bin s = arithDecode bin { v with
        qm := { v.qm with a := 0x10000, c := BitVec.ofNat 32 (b.toNat * 256 + b'.toNat), ct := 0 } }) ∧
    (s.qm.a ≠ 0 → 1 ≤ s.qm.ct →
      arithDecode bin s = arithDecode bin { s with qm := { s.qm with a := doubled, ct := s.qm.ct - 1 } }) ∧
    (s.qm.a ≠ 0 → s.qm.ct = 0 → ∀ b u, byteIn s = .ok (b, u) →
      arithDecode bin s = arithDecode bin { u with
        qm := { u.qm with a := doubled, c := BitVec.ofNat 32 (s.qm.c.toNat * 256 + b.toNat), ct := 7 } })) ∧
  (∀ (st : Stats) (t i : Nat) (v : Byte), t < 4 → st.ok →
    (i < 64 → (st.setBin (.dc t i) v).binByte (.dc t i) = v) ∧
    (i < 256 → (st.setBin (.ac t i) v).binByte (.ac t i) = v) ∧
    (st.setBin (.ll t i) v).binByte (.ll t i) = v ∧ st.setBin .fixed v = st ∧ st.binByte .fixed = 0) ∧
  qeTable =
    [⟨0x5A1D, 1, 1, true⟩, ⟨0x2586, 14, 2, false⟩, ⟨0x1114, 16, 3, false⟩, ⟨0x080B, 18, 4, false⟩, ⟨0x03D8, 20, 5, false⟩] ++
    [⟨0x01DA, 23, 6, false⟩, ⟨0x00E5, 25, 7, false⟩, ⟨0x006F, 28, 8, false⟩, ⟨0x0036, 30, 9, false⟩, ⟨0x001A, 33, 10, false⟩] ++
    [⟨0x000D, 35, 11, false⟩, ⟨0x0006, 9, 12, false⟩, ⟨0x0003, 10, 13, false⟩, ⟨0x0001, 12, 13, false⟩, ⟨0x5A7F, 15, 15, true⟩] ++
    [⟨0x3F25, 36, 16, false⟩, ⟨0x2CF2, 38, 17, false⟩, ⟨0x207C, 39, 18, false⟩, ⟨0x17B9, 40, 19, false⟩, ⟨0x1182, 42, 20, false⟩] ++
    [⟨0x0CEF, 43, 21, false⟩, ⟨0x09A1, 45, 22, false⟩, ⟨0x072F, 46, 23, false⟩, ⟨0x055C, 48, 24, false⟩, ⟨0x0406, 49, 25, false⟩] ++
    [⟨0x0303, 51, 26, false⟩, ⟨0x0240, 52, 27, false⟩, ⟨0x01B1, 54, 28, false⟩, ⟨0x0144, 56, 29, false⟩, ⟨0x00F5, 57, 30, false⟩] ++
    [⟨0x00B7, 59, 31, false⟩, ⟨0x008A, 60, 32, false⟩, ⟨0x0068, 62, 33, false⟩, ⟨0x004E, 63, 34, false⟩, ⟨0x003B, 32, 35, false⟩] ++
    [⟨0x002C, 33, 9, false⟩, ⟨0x5AE1, 37, 37, true⟩, ⟨0x484C, 64, 38, false⟩, ⟨0x3A0D, 65, 39, false⟩, ⟨0x2EF1, 67, 40, false⟩] ++
    [⟨0x261F, 68, 41, false⟩, ⟨0x1F33, 69, 42, false⟩, ⟨0x19A8, 70, 43, false⟩, ⟨0x1518, 72, 44, false⟩, ⟨0x1177, 73, 45, false⟩] ++
    [⟨0x0E74, 74, 46, false⟩, ⟨0x0BFB, 75, 47, false⟩, ⟨0x09F8, 77, 48, false⟩, ⟨0x0861, 78, 49, false⟩, ⟨0x0706, 79, 50, false⟩] ++
    [⟨0x05CD, 48, 51, false⟩, ⟨0x04DE, 50, 52, false⟩, ⟨0x040F, 50, 53, false⟩, ⟨0x0363, 51, 54, false⟩, ⟨0x02D4, 52, 55, false⟩] ++
    [⟨0x025C, 53, 56, false⟩, ⟨0x01F8, 54, 57, false⟩, ⟨0x01A4, 55, 58, false⟩, ⟨0x0160, 56, 59, false⟩, ⟨0x0125, 57, 60, false⟩] ++
    [⟨0x00F6, 58, 61, false⟩, ⟨0x00CB, 59, 62, false⟩, ⟨0x00AB, 61, 63, false⟩, ⟨0x008F, 61, 32, false⟩, ⟨0x5B12, 65, 65, true⟩] ++
    [⟨0x4D04, 80, 66, false⟩, ⟨0x412C, 81, 67, false⟩, ⟨0x37D8, 82, 68, false⟩, ⟨0x2FE8, 83, 69, false⟩, ⟨0x293C, 84, 70, false⟩] ++
    [⟨0x2379, 86, 71, false⟩, ⟨0x1EDF, 87, 72, false⟩, ⟨0x1AA9, 87, 73, false⟩, ⟨0x174E, 72, 74, false⟩, ⟨0x1424, 72, 75, false⟩] ++
    [⟨0x119C, 74, 76, false⟩, ⟨0x0F6B, 74, 77, false⟩, ⟨0x0D51, 75, 78, false⟩, ⟨0x0BB6, 77, 79, false⟩, ⟨0x0A40, 77, 48, false⟩] ++
    [⟨0x5832, 80, 81, true⟩, ⟨0x4D1C, 88, 82, false⟩, ⟨0x438E, 89, 83, false⟩, ⟨0x3BDD, 90, 84, false⟩, ⟨0x34EE, 91, 85, false⟩] ++
    [⟨0x2EAE, 92, 86, false⟩, ⟨0x299A, 93, 87, false⟩, ⟨0x2516, 86, 71, false⟩, ⟨0x5570, 88, 89, true⟩, ⟨0x4CA9, 95, 90, false⟩] ++
    [⟨0x44D9, 96, 91, false⟩, ⟨0x3E22, 97, 92, false⟩, ⟨0x3824, 99, 93, false⟩, ⟨0x32B4, 99, 94, false⟩, ⟨0x2E17, 93, 86, false⟩] ++
    [⟨0x56A8, 95, 96, true⟩, ⟨0x4F46, 101, 97, false⟩, ⟨0x47E5, 102, 98, false⟩, ⟨0x41CF, 103, 99, false⟩, ⟨0x3C3D, 104, 100, false⟩] ++
    [⟨0x375E, 99, 93, false⟩, ⟨0x5231, 105, 102, false⟩, ⟨0x4C0F, 106, 103, false⟩, ⟨0x4639, 107, 104, false⟩, ⟨0x415E, 103, 99, false⟩] ++
    [⟨0x5627, 105, 106, true⟩, ⟨0x50E7, 108, 107, false⟩, ⟨0x4B85, 109, 103, false⟩, ⟨0x5597, 110, 109, false⟩, ⟨0x504F, 111, 107, false⟩] ++
    [⟨0x5A10, 110, 111, true⟩, ⟨0x5522, 112, 109, false⟩, ⟨0x59EB, 112, 111, true⟩]

/-- The decision trees. A DC difference (R352): S0, the sign, the magnitude category in the bins from 20 on, the conditioning category of
the component, the magnitude bits in the bin 14 further; 15 category decisions of 1 are a FormatError. A non-zero AC value (R354): the
fixed sign, two decisions of one bin, the category from 189 or 217 on by KX, the bits; 14 of 1 are a FormatError. A lossless difference
(R421): the tree of R352 on its own bins and context, with no conditioning category. -/
def Obligations.DecisionTrees : Prop :=
  let sgn (sign : Bool) : Nat := if sign then 1 else 0
  let value (sign : Bool) (v : Nat) : Int := if sign then -(v : Int) else v
  (∀ (s u : State) (c : Nat),
    let k := s.fr.compAt c
    let bin : Nat → Bin := .dc k.td.toNat
    let s0 := vget s.pr.dcCtx c 0
    let cond := (vget s.tb.dacDc k.td.toNat 0).toNat
    let category (m : Nat) (sign : Bool) : Nat := if m < 2 ^ (cond % 16) / 2 then 0
      else if 2 ^ (cond / 16) / 2 < m then 12 + 4 * sgn sign else 4 + 4 * sgn sign
    let conditioned (x : Nat) : State := { u with pr := { u.pr with dcCtx := vset u.pr.dcCtx c x } }
    (Rule.decides [(bin s0, false)] s u → decodeDcDiff c s = .ok (0, conditioned 0)) ∧
    ∀ sign,
      let start : List (Bin × Bool) := [(bin s0, true), (bin (s0 + 1), sign)]
      let large := start ++ [(bin (s0 + 2 + sgn sign), true)]
      (Rule.decides (start ++ [(bin (s0 + 2 + sgn sign), false)]) s u →
        decodeDcDiff c s = .ok (value sign 1, conditioned (category 0 sign))) ∧
      (∀ bits t, bits.length ≤ 14 → Rule.decides (large ++ Rule.unary bin 20 bits.length) s u →
        Rule.decides (Rule.bitsIn (bin (34 + bits.length)) bits) (conditioned (category (2 ^ bits.length) sign)) t →
        decodeDcDiff c s = .ok (value sign (2 ^ bits.length + bitsValue bits + 1), t)) ∧
      (Rule.decides (large ++ Rule.ones bin 20 15) s u → decodeDcDiff c s = .error (.raise .formatError u))) ∧
  (∀ (s u : State) (c k : Nat) (sign : Bool),
    let comp := s.fr.compAt c
    let bin : Nat → Bin := .ac comp.ta.toNat
    let st := bin (3 * (k - 1) + 2)
    let x := if k ≤ (vget s.tb.dacAc comp.ta.toNat 0).toNat then 189 else 217
    (Rule.decides [(.fixed, sign), (st, false)] s u → decodeAcValue c k s = .ok (value sign 1, u)) ∧
    (Rule.decides [(.fixed, sign), (st, true), (st, false)] s u → decodeAcValue c k s = .ok (value sign 2, u)) ∧
    (∀ (d : Bool) bits t, bits.length ≤ 13 →
      Rule.decides ([(.fixed, sign), (st, true), (st, true)] ++ Rule.unary bin x bits.length) s u →
      Rule.decides (Rule.bitsIn (bin (x + bits.length + 14)) (d :: bits)) u t →
      decodeAcValue c k s = .ok (value sign (2 ^ (bits.length + 1) + bitsValue (d :: bits) + 1), t)) ∧
    (Rule.decides ([(.fixed, sign), (st, true), (st, true)] ++ Rule.ones bin x 14) s u →
      decodeAcValue c k s = .error (.raise .formatError u))) ∧
  ∀ (s u : State) (t s0 x : Nat),
    let bin : Nat → Bin := .ll t
    (Rule.decides [(bin s0, false)] s u → decodeDiffLl t s0 x s = .ok (0, u)) ∧
    ∀ sign,
      let start : List (Bin × Bool) := [(bin s0, true), (bin (s0 + 1), sign)]
      let large := start ++ [(bin (s0 + 2 + sgn sign), true)]
      (Rule.decides (start ++ [(bin (s0 + 2 + sgn sign), false)]) s u → decodeDiffLl t s0 x s = .ok (value sign 1, u)) ∧
      (∀ bits v, bits.length ≤ 14 → Rule.decides (large ++ Rule.unary bin x bits.length) s u →
        Rule.decides (Rule.bitsIn (bin (x + bits.length + 14)) bits) u v →
        decodeDiffLl t s0 x s = .ok (value sign (2 ^ bits.length + bitsValue bits + 1), v)) ∧
      (Rule.decides (large ++ Rule.ones bin x 15) s u → decodeDiffLl t s0 x s = .error (.raise .formatError u))

/-- ARI_SEQ, ARI_AC_FIRST and ARI_AC_REFINE are the procedures of R350, R358 and R360 on the addressed block; ARI_DC_FIRST (R356)
stores the predicted value shifted by AL; ARI_DC_REFINE (R357) sets bit AL of `blk[0]` where the fixed decision is 1. -/
def Obligations.AriRoutines : Prop :=
  ∀ (d : Bool) (s : State) (e : McuEntry) (blk : Block), s.sc.mcud[s.sc.entry]? = some e →
    s.block? (s.addressOf e) = some blk →
    let a := s.addressOf e
    let p1 : Int := 2 ^ s.sc.al.toNat
    exec (.ariSeq d) s = runAct (Rule.ariSeq a) s ∧
    exec (.ariAcFirst d) s = runAct (Rule.ariAcFirst a) s ∧
    exec (.ariAcRefine d) s = runAct (Rule.ariAcRefine a) s ∧
    (∀ t, Rule.ariSeq a s = .ok ((), t) → exec (.ariSeq d) s = .next t) ∧
    (∀ t, Rule.ariAcFirst a s = .ok ((), t) → exec (.ariAcFirst d) s = .next t) ∧
    (∀ t, Rule.ariAcRefine a s = .ok ((), t) → exec (.ariAcRefine d) s = .next t) ∧
    (∀ diff u, decodeDcDiff a.c s = .ok (diff, u) →
      let val := if s.fr.ft.getLsbD 2 then diff else vget s.pr.pred a.c 0 + diff
      inInt32 val = true → inInt32 (val * p1) = true →
      exec (.ariDcFirst d) s = .next { (u.withBlock a (vset blk 0 (val * p1))) with
        pr := if s.fr.ft.getLsbD 2 then u.pr else { u.pr with pred := vset u.pr.pred a.c val } }) ∧
    (∀ bit u, arithDecode .fixed s = .ok (bit, u) →
      let v := vget blk 0 0
      exec (.ariDcRefine d) s = .next
        (if bit then u.withBlock a (vset blk 0 (if v / p1 % 2 = 1 then v else v + p1)) else u))

/-! ### Frames of the decoders -/

/-- A Huffman symbol or routine that does not fail changes the bit reader, the predictors, the difference history, EOBRUN, the addressed
block or sample and the block in progress; an arithmetic routine the QM coder, BP, the bins, the predictors, the contexts, the
difference history and the addressed block or sample. Every register, every byte of memory, every table, every other block and
sample is unchanged, and a recorded Overflow stays. -/
def Obligations.EntropyFrames : Prop :=
  (∀ (i : Instr) (s t : State), readsHuffman i = true → exec i s = .next t → s.busy = true → t.busy = true →
    t.regs = s.regs ∧ t.mem = s.mem ∧ t.params = s.params ∧ t.script = s.script ∧ t.rdata = s.rdata ∧ t.hi = s.hi ∧
    t.enc = s.enc ∧ t.fr = s.fr ∧ t.sc = s.sc ∧ t.tb = s.tb ∧ t.breach = s.breach ∧ t.qm = s.qm ∧ t.st = s.st ∧
    t.rd.segEnd = s.rd.segEnd ∧ t.pr.dcCtx = s.pr.dcCtx ∧ t.arena = { s.arena with planes := t.arena.planes } ∧
    t.sq = { s.sq with block := t.sq.block } ∧ (s.overflow = true → t.overflow = true) ∧
    ∀ a, targetOf i s ≠ some a → t.block? a = s.block? a ∧ t.sample? a = s.sample? a) ∧
  (∀ (i : Instr) (s t : State), readsDecisions i = true → exec i s = .next t → s.busy = true → t.busy = true →
    t.regs = s.regs ∧ t.mem = s.mem ∧ t.params = s.params ∧ t.script = s.script ∧ t.rdata = s.rdata ∧ t.hi = s.hi ∧
    t.enc = s.enc ∧ t.fr = s.fr ∧ t.sc = s.sc ∧ t.tb = s.tb ∧ t.breach = s.breach ∧ t.sq = s.sq ∧
    t.rd = { s.rd with bp := t.rd.bp } ∧ t.pr.eobrun = s.pr.eobrun ∧
    t.arena = { s.arena with planes := t.arena.planes } ∧ (s.overflow = true → t.overflow = true) ∧
    ∀ a, targetOf i s ≠ some a → t.block? a = s.block? a ∧ t.sample? a = s.sample? a)

/-! ### Reconstruction and output -/

/-- Dequantization and the inverse DCT (R441, R443): products in range are the products entry by entry; a block whose only coefficient
is DC gives the same sample everywhere, dc / 8 rounded, level-shifted and limited unless the frame is differential; every sample of a
non-differential frame is within 0 .. 2^P - 1. -/
def Obligations.DequantizeAndTransform : Prop :=
  (∀ (b : Block) (q : QTable) (s : State),
    (∀ k < 64, inInt32 (vget b k 0 * (vget q k 0).toNat) = true) →
    dequant b q s = .ok (Vector.ofFn fun k => vget b k.val 0 * (vget q k.val 0).toNat, s)) ∧
  ∀ (params : Config.Params) (p : Nat) (f : Block), params.idct = .reference → 1 ≤ p →
    (∀ k < 64, 0 ≤ vget (idct params p false f) k 0 ∧ vget (idct params p false f) k 0 ≤ 2 ^ p - 1) ∧
    ((∀ k, 0 < k → vget f k 0 = 0) → ∀ k < 64,
      let r := roundDiv (vget f 0 0) 8
      vget (idct params p true f) k 0 = r ∧
      vget (idct params p false f) k 0 = max 0 (min (r + 2 ^ (p - 1)) (2 ^ p - 1)))

/-- The end of a frame (R257, R440, R584 steps d and e). Every coefficient of every component must be covered down to bit 0, in a
lossless frame every component be in a scan, or FormatError; then each component is reconstructed and, in a hierarchical image, folded
into ACC; the next frame or the output comes next, and an error of these is taken. The reconstruction of a component: its samples are
allocated (log 37); those of a DCT plane are the inverse transforms of its dequantized blocks, block by block (R441, R444), those of a
lossless plane its samples shifted by their point transform (R409; AL of the component's scan, log 24). -/
def Obligations.FrameEnd : Prop :=
  (∀ s : State, s.script = [] → s.sq.phase = .frameEnd → s.undisturbed →
    let comps := List.range s.fr.nf.toNat
    let covered : Prop := ∀ c < s.fr.nf.toNat,
      if s.fr.ft.toNat % 4 = 3 then vget s.fr.seen c false = true else ∀ k < 64, coverAt s.tb.cover c k = some 0
    let onward (t : State) : State := { t with sq := { t.sq with
      frameIx := t.sq.frameIx + 1, scanIx := 0
      phase := if t.sq.frameIx + 1 < t.arena.layout.frames.length then .replaySof else .output } }
    (¬ covered → step s = .next (failEntry .formatError s)) ∧
    (covered →
      (∀ e u, forComps reconstructComp comps s = .error (.raise e u) → step s = .next (failEntry e u)) ∧
      ∀ t, forComps reconstructComp comps s = .ok ((), t) →
        (s.hi.dhp = none → step s = .next (onward t)) ∧
        (s.hi.dhp ≠ none →
          (∀ e u, forComps accumulateComp comps t = .error (.raise e u) → step s = .next (failEntry e u)) ∧
          ∀ u, forComps accumulateComp comps t = .ok ((), u) → step s = .next (onward u)))) ∧
  ∀ (s : State) (c : Nat), c < 4 →
    let held (w h : Nat) (rs : Samples) : State :=
      let t := s.allocated (.samples w h)
      { t with arena := { t.arena with rs := vset t.arena.rs c (some rs) } }
    (∀ bw bh blocks q, s.plane c = some (.dct bw bh blocks) → blocks.length = bw * bh → vget s.tb.ql c none = some q →
      s.roomFor (.samples (8 * bw) (8 * bh)) →
      (∀ b ∈ blocks, ∀ k < 64, inInt32 (vget b k 0 * (vget q k 0).toNat) = true) →
      ∃ rs : Samples, reconstructComp c s = .ok ((), held (8 * bw) (8 * bh) rs) ∧ rs.w = 8 * bw ∧ rs.h = 8 * bh ∧
        ∀ bx < bw, ∀ byy < bh, ∀ x < 8, ∀ y < 8, ∀ b, blocks[byy * bw + bx]? = some b →
          rs.at (8 * bx + x) (8 * byy + y) =
            vget (idct s.params s.fr.p.toNat (s.fr.ft.getLsbD 2)
              (Vector.ofFn fun k => vget b k.val 0 * (vget q k.val 0).toNat)) (8 * y + x) 0) ∧
    (∀ sw sh cells, s.plane c = some (.lossless sw sh cells) → cells.length = (sw + 1) * (sh + 1) → s.roomFor (.samples sw sh) →
      ∃ rs : Samples, reconstructComp c s = .ok ((), held sw sh rs) ∧ rs.w = sw ∧ rs.h = sh ∧
        ∀ x < sw, ∀ y < sh, ∀ v, s.sample? ⟨c, x, y⟩ = some v → rs.at x y = v.toNat * 2 ^ (vget s.fr.pt c 0).toNat)

/-- Hierarchical accumulation (R472-R474). A non-differential frame opens a plane for the component: its samples cut to XC x YC, modulo
2^16 (log 40). A differential frame's component is added: an axis that grows does so to twice the length or one less, any other size is
a FormatError, and so is a preceding EXP that does not name the axes that grow. The old plane is expanded, horizontally first, by the
reference 2x interpolation, and the sums are taken modulo 2^16. The allocation of an opened and of a grown plane is the model's reading
(log 37). -/
def Obligations.HierarchicalAccumulation : Prop :=
  ∀ (s : State) (c : Nat) (rs : Samples), vget s.arena.rs c none = some rs →
    let id := (s.fr.compAt c).id
    let w := ceilDiv (s.fr.x.toNat * s.fr.hOf c) s.fr.hmax.toNat
    let h := ceilDiv (s.fr.y.toNat * s.fr.vOf c) s.fr.vmax.toNat
    (s.fr.ft.getLsbD 2 = false → s.roomFor (.accumulator w h) →
      let t := s.allocated (.accumulator w h)
      ∃ plane : Samples, plane.w = w ∧ plane.h = h ∧ (∀ x < w, ∀ y < h, plane.at x y = rs.at x y % 65536) ∧
        accumulateComp c s = .ok ((), { t with arena := { t.arena with acc := s.arena.acc ++ [⟨id, plane⟩] } })) ∧
    (∀ old : Samples, s.fr.ft.getLsbD 2 = true → findAcc s.arena.acc id = some old →
      let grown (a b : Nat) : Prop := a < b ∧ (b = 2 * a ∨ b + 1 = 2 * a)
      let fits : Prop := (w = old.w ∨ grown old.w w) ∧ (h = old.h ∨ grown old.h h) ∧
        ∀ e, s.fr.exp = some e → (e.1 = true ↔ old.w < w) ∧ (e.2 = true ↔ old.h < h)
      (¬ fits → accumulateComp c s = .error (.raise .formatError s)) ∧
      (fits → s.params.expand = .reference → (old.w < w ∨ old.h < h → s.roomFor (.accumulator w h)) →
        let t := if old.w < w ∨ old.h < h then s.allocated (.accumulator w h) else s
        let wide (x y : Nat) : Int := if old.w < w then
            (if x % 2 = 0 then old.at (x / 2) y else (old.at (x / 2) y + old.at (min (x / 2 + 1) (old.w - 1)) y) / 2)
          else old.at x y
        let full (x y : Nat) : Int := if old.h < h then
            (if y % 2 = 0 then wide x (y / 2) else (wide x (y / 2) + wide x (min (y / 2 + 1) (old.h - 1))) / 2)
          else wide x y
        ∃ plane : Samples, plane.w = w ∧ plane.h = h ∧ (∀ x < w, ∀ y < h, plane.at x y = (full x y + rs.at x y) % 65536) ∧
          accumulateComp c s = .ok ((), { t with arena := { t.arena with
            acc := s.arena.acc.map fun a => if a.id = id then ⟨id, plane⟩ else a } })))

/-- SCALE16 (R454) at its reference value: the nearest 16-bit value, v * 257 for P = 8 and v for P = 16. -/
def Obligations.ScaleToSixteenBits : Prop :=
  ∀ (params : Config.Params) (p v : Nat), params.scale16 = .reference → 2 ≤ p → p ≤ 16 → v ≤ 2 ^ p - 1 →
    (scale16 params p v).toNat = (2 * v * 65535 + (2 ^ p - 1)) / (2 * (2 ^ p - 1)) ∧
    (p = 8 → (scale16 params p v).toNat = v * 257) ∧ (p = 16 → (scale16 params p v).toNat = v)

/-- The pixel sink (R105, R456): 8 bytes per pixel, pixel (x, y) at offset 8*(y*X + x), channels R, G, B, A, low byte first; an output
buffer shorter than 8*X*Y is OutOfMemory before the first write; otherwise the bytes stand from OUT_BASE on, and no other byte of memory
changes but the arena's, which is unspecified where the engine used it (log 13). That these are bytes of memory where the output covers
the register block too is the model's choice (log 12). A byte the host wrote in the output during the operation stays unspecified (R111,
log 15). The step that ends a decode writes so the pixels of the image and succeeds (R584): of the
frame's samples, cut to XC x YC and, in a lossless frame, limited to 2^P - 1 (R452); in a hierarchical image of the accumulated planes,
each limited, where every DHP component has one of the image's full resolution, else ImageDataError (R476). The components are those
TRANSFER was selected for (log 20). -/
def Obligations.PixelSinkLayout : Prop :=
  ((∀ (params : Config.Params) (kind : Config.TransferKind) (p w h hmax vmax : Nat) (comps : List OutComp),
    (imageBytes params kind p w h hmax vmax comps).length = 8 * w * h ∧
    ∀ x y j, x < w → y < h → j < 8 →
      lget (imageBytes params kind p w h hmax vmax comps) (8 * (y * w + x) + j) 0 =
      lget (pixelBytes params p (transferApply params kind p
        (comps.map fun c => upsample params hmax c.h vmax c.v c.plane x y))) j 0) ∧
  ∀ (params : Config.Params) (p : Nat) (c : Config.Channels) (k : Nat), k < 4 →
    let value : BitVec 16 := if k = 0 then channelOut params p c.r else if k = 1 then channelOut params p c.g
      else if k = 2 then channelOut params p c.b
      else match c.a with
        | some a => channelOut params p a
        | none => params.alphaAbsent
    (lget (pixelBytes params p c) (2 * k) 0).toNat = value.toNat % 256 ∧
    (lget (pixelBytes params p c) (2 * k + 1) 0).toNat = value.toNat / 256) ∧
  (∀ (w h : Nat) (bytes : List Byte) (s : State), s.mem.wf = true → bytes.length = 8 * w * h →
    (s.outLen < 8 * w * h → writePixels w h bytes s = .error (.raise .outOfMemory s)) ∧
    (8 * w * h ≤ s.outLen → ∃ t, writePixels w h bytes s = .ok ((), t) ∧
      (∀ k < 8 * w * h,
        (inRanges s.breach.out (s.outAddr k) = true → t.mem.unknown (s.outAddr k) = true) ∧
        (inRanges s.breach.out (s.outAddr k) = false →
          t.mem.read (s.outAddr k) = lget bytes k 0 ∧ t.mem.unknown (s.outAddr k) = false)) ∧
      (∀ a, (∀ k < 8 * w * h, a ≠ s.outAddr k) →
        (s.arena.used ≠ 0 → s.inArena a = true → t.mem.unknown a = true) ∧
        (s.arena.used = 0 ∨ s.inArena a = false → t.mem.read a = s.mem.read a ∧ t.mem.unknown a = s.mem.unknown a)) ∧
      t = { s with mem := t.mem, regs := { s.regs with imgWidth := BitVec.ofNat 32 w, imgHeight := BitVec.ofNat 32 h } })) ∧
  ∀ (s : State) (kind : Config.TransferKind), s.script = [] → s.sq.phase = .output → s.undisturbed → s.hi.transfer = some kind →
    let ends (w h : Nat) (bytes : List Byte) : Prop :=
      (∀ t, writePixels w h bytes s = .ok ((), t) → step s = .next (succeed t)) ∧
      (∀ e t, writePixels w h bytes s = .error (.raise e t) → step s = .next (failEntry e t))
    (∀ comps : List OutComp, s.hi.dhp = none → comps.length = s.fr.nf.toNat →
      (∀ c o, comps[c]? = some o → ∃ rs : Samples, vget s.arena.rs c none = some rs ∧
        o = ⟨Samples.build (ceilDiv (s.fr.x.toNat * s.fr.hOf c) s.fr.hmax.toNat) (ceilDiv (s.fr.y.toNat * s.fr.vOf c) s.fr.vmax.toNat)
          (fun x y => if s.fr.ft.toNat % 4 = 3 then min (rs.at x y) (2 ^ s.fr.p.toNat - 1) else rs.at x y),
          s.fr.hOf c, s.fr.vOf c⟩) →
      ends s.fr.x.toNat s.fr.y.toNat (imageBytes s.params kind s.fr.p.toNat s.fr.x.toNat s.fr.y.toNat s.fr.hmax.toNat
        s.fr.vmax.toNat comps)) ∧
    ∀ d, s.hi.dhp = some d →
      let hmax := (d.comps.map (·.2.1)).foldl max 0
      let vmax := (d.comps.map (·.2.2)).foldl max 0
      let complete : Prop := ∀ e ∈ d.comps, ∃ p, findAcc s.arena.acc e.1 = some p ∧
        p.w = ceilDiv (d.x.toNat * e.2.1) hmax ∧ p.h = ceilDiv (d.y.toNat * e.2.2) vmax
      (¬ complete → step s = .next (failEntry .imageDataError s)) ∧
      ∀ comps : List OutComp, complete → comps.length = s.hi.ids.length →
        (∀ (j : Nat) (o : OutComp), comps[j]? = some o → ∃ id p e, s.hi.ids[j]? = some id ∧ findAcc s.arena.acc id = some p ∧
          d.comps.find? (fun e => e.1 == id) = some e ∧
          o = ⟨{ p with data := p.data.map fun v => min v (2 ^ d.p.toNat - 1) }, e.2.1, e.2.2⟩) →
        ends d.x.toNat d.y.toNat (imageBytes s.params kind d.p.toNat d.x.toNat d.y.toNat hmax vmax comps)

/-- The first checks of an encode (R490): a zero width or height is a FormatError, an input shorter than 8*W*H an ImageDataError. That
this holds of an 8*W*H from 2^32 on too, where R107 speaks of ImageTooLarge, is the model's choice (log 6). And the byte writer (R510,
R513): 0xFF is followed by 0x00, and a byte at or beyond OUT_LEN is OutOfMemory, be it the 0x00 behind a 0xFF at the last place. -/
def Obligations.EncoderChecksAndStuffing : Prop :=
  (∀ s : State, s.script = [] → s.sq.phase = .encRead → s.undisturbed →
    let w := s.regs.imgWidth.toNat % 65536
    let h := s.regs.imgHeight.toNat % 65536
    (w = 0 ∨ h = 0 → step s = .next (failEntry .formatError s)) ∧
    (w ≠ 0 → h ≠ 0 → s.inLen < 8 * w * h → step s = .next (failEntry .imageDataError s))) ∧
  ∀ (s : State) (b : Byte),
    (s.outLen ≤ s.enc.opos → putEntropyByte b s = .error (.raise .outOfMemory s)) ∧
    (b ≠ 0xFF → s.enc.opos < s.outLen → putEntropyByte b s = .ok ((), { s.store (s.outAddr s.enc.opos) [b] with
      enc := { s.enc with opos := s.enc.opos + 1 } })) ∧
    (s.enc.opos + 1 = s.outLen → putEntropyByte 0xFF s = .error (.raise .outOfMemory { s.store (s.outAddr s.enc.opos) [0xFF] with
      enc := { s.enc with opos := s.enc.opos + 1 } })) ∧
    (s.enc.opos + 1 < s.outLen → putEntropyByte 0xFF s = .ok ((), { s.store (s.outAddr s.enc.opos) [0xFF, 0x00] with
      enc := { s.enc with opos := s.enc.opos + 2 } }))

/-- The symbols of a block (R497): the category of the DC difference with its extra bits, then AC symbols that stand for the other
coefficients (ZRL, runs with a value, EOB last where zeros are left), each value in the extra bits of its category; so the symbols say
what the decoder reads from them (R301, R302). The scans: the Y blocks in raster order, and a Cb and a Cr block in turn, each predicted
by the block before of its component, 0 at first (R497, R512). The frequencies count them (R498). -/
def Obligations.EncoderSymbols : Prop :=
  (∀ (dcTable acTable : Nat) (pred : Int) (b : Block), (∀ k < 64, (vget b k 0).natAbs < 2 ^ 15) →
    (vget b 0 0 - pred).natAbs < 2 ^ 15 →
    ∃ dc ac, blockTokens dcTable acTable pred b = dc :: ac ∧
      dc.table = dcTable ∧ dc.sym = dc.size ∧ dc.size ≤ 15 ∧ dc.extra < 2 ^ dc.size ∧
      extend dc.extra dc.size = vget b 0 0 - pred ∧
      (∀ t ∈ ac, t.table = acTable ∧ t.sym < 256 ∧ t.size = t.sym % 16 ∧ t.extra < 2 ^ t.size) ∧
      Rule.acValues ac 63 = b.toList.drop 1) ∧
  (∀ e : Enc,
    let dcAt (bs : List Block) (j : Nat) : Int := if j = 0 then 0 else vget (lget bs (j - 1) (Vector.replicate 64 0)) 0 0
    let at' (bs : List Block) (j : Nat) : Block := lget bs j (Vector.replicate 64 0)
    e.yTokens = ((List.range e.yBlocks.length).flatMap fun j => blockTokens 0 1 (dcAt e.yBlocks j) (at' e.yBlocks j)) ∧
    e.cTokens = ((List.range (min e.cbBlocks.length e.crBlocks.length)).flatMap fun j =>
      blockTokens 2 3 (dcAt e.cbBlocks j) (at' e.cbBlocks j) ++ blockTokens 2 3 (dcAt e.crBlocks j) (at' e.crBlocks j))) ∧
  ∀ (ts : List Token) (i sym : Nat), i < 4 → sym < 256 →
    vget (vget (countTokens ts) i (Vector.replicate 256 0)) sym 0 = (ts.filter fun t => t.table == i && t.sym == sym).length

/-- The encoder's code tables. BuildLengths (R500): none where every frequency is 0; length 1 for a single used symbol; else the depths of
the tree that joins the two nodes of smallest key until one is left. Whatever HUFF_LIMIT is (R502), a used symbol has a length of 1 to
16, an unused one 0, and with two or more used symbols the code is complete. AssignCodes (R503): BITS counts the symbols of each length,
HUFFVAL lists the used ones by length, then by value, and each symbol has the codeword of R290 and its length. -/
def Obligations.EncoderCodeLengths : Prop :=
  (∀ (params : Config.Params) (freq : List Nat),
    let used := (List.range freq.length).filter fun k => lget freq k 0 != 0
    let leaves : List TreeNode := used.map fun k => ⟨lget freq k 0, k, [(k, 0)]⟩
    let depths := Rule.mergePending leaves.length leaves
    let tree : List Nat := (List.range freq.length).map fun k => ((depths.find? fun d => d.1 == k).map (·.2)).getD 0
    (used = [] → buildLengths params freq 16 = none) ∧
    (∀ k, used = [k] → buildLengths params freq 16 = some ((List.range freq.length).map fun j => if j = k then 1 else 0)) ∧
    (2 ≤ used.length → (∀ l ∈ tree, l ≤ 16) → buildLengths params freq 16 = some tree) ∧
    (2 ≤ used.length → freq.length ≤ 256 → ∃ len, buildLengths params freq 16 = some len ∧ len.length = freq.length ∧
      (∀ k < freq.length, lget len k 0 ≤ 16 ∧ (lget len k 0 = 0 ↔ lget freq k 0 = 0)) ∧
      ((List.range freq.length).map fun k => if lget freq k 0 = 0 then 0 else 2 ^ (16 - lget len k 0)).sum = 2 ^ 16)) ∧
  ∀ (len : List Nat) (codes : List Code), len.length ≤ 256 → (∀ l ∈ len, l ≤ 16) →
    let vals := huffvalOf len
    (∀ l < 16, lget (bitsOf len) l 0 = len.count (l + 1)) ∧ (bitsOf len).length = 16 ∧
    (∀ v : Byte, v ∈ vals ↔ lget len v.toNat 0 ≠ 0) ∧
    (vals.Pairwise fun v w => lget len v.toNat 0 < lget len w.toNat 0 ∨
      (lget len v.toNat 0 = lget len w.toNat 0 ∧ v.toNat < w.toNat)) ∧
    (buildTrie (bitsOf len) vals = some codes → ∃ co si, assignEncCodes len = some (co, si) ∧
      (∀ c ∈ codes, vget co c.sym.toNat 0 = c.code) ∧ ∀ k < len.length, vget si k 0 = lget len k 0)

/-! ### Host memory -/

/-- A byte the host writes (R111, R550, R591; log 13, log 15): when idle, even before the host has observed DONE (the model's choice, log
15), or outside the three buffers, it is stored and nothing else changes; while BUSY a byte of a buffer becomes unspecified, one of the
arena makes the engine's reads of the arena free values, and one of the output is recorded. What the engine then finds: the arena's
records, tables, planes and samples and the encoder's planes and tables drawn, as many and of the sizes they had, which is the model's
choice (log 15). -/
def Obligations.HostStores : Prop :=
  (∀ (s : State) (a : Nat) (b : Byte), s.mem.wf = true → rangesFrom 0 s.breach.out = true →
    let t := s.hostStore a b
    t.mem.wf = true ∧ rangesFrom 0 t.breach.out = true ∧
    (∀ a', a' ≠ a → t.mem.read a' = s.mem.read a' ∧ t.mem.unknown a' = s.mem.unknown a') ∧
    (s.busy = false ∨ (s.inInput a = false ∧ s.inOutput a = false ∧ s.inArena a = false) →
      t.mem.read a = b ∧ t.mem.unknown a = false ∧ t = { s with mem := t.mem }) ∧
    (s.busy = true → s.inInput a = true ∨ s.inOutput a = true ∨ s.inArena a = true →
      t.mem.unknown a = true ∧ t = { s with mem := t.mem, breach := t.breach } ∧
      (t.breach.arena = true ↔ s.breach.arena = true ∨ s.inArena a = true) ∧
      ∀ a', inRanges t.breach.out a' = true ↔ inRanges s.breach.out a' = true ∨ (s.inOutput a = true ∧ a' = a))) ∧
  (∀ s : State, s.script = [] → s.breach.arena = true → step s = engineRun exec s.drawArena) ∧
  (∀ s : State, let t := s.drawArena
    t = { s with arena := t.arena, enc := t.enc, draws := s.draws + 1 } ∧ t.arena.used = s.arena.used ∧
    t.arena.layout.frames.length = s.arena.layout.frames.length ∧ t.arena.layout.aux.length = s.arena.layout.aux.length ∧
    (∀ (k : Nat) (f g : FrameRec), s.arena.layout.frames[k]? = some f → t.arena.layout.frames[k]? = some g →
      g.scans.length = f.scans.length) ∧
    (∀ cls i, (t.arena.slot cls i).map (·.bytes) = (s.arena.slot cls i).map (·.bytes)) ∧
    (∀ c, (t.plane c).isSome = (s.plane c).isSome ∧
      (vget t.arena.rs c none).isSome = (vget s.arena.rs c none).isSome) ∧
    (∀ c p q, s.plane c = some p → t.plane c = some q → q.size = p.size) ∧
    t.arena.acc.map (·.id) = s.arena.acc.map (·.id) ∧
    t.enc.w = s.enc.w ∧ t.enc.h = s.enc.h ∧ t.enc.obuf = s.enc.obuf ∧ t.enc.opos = s.enc.opos)

/-! ### What every step keeps -/

/-- The invariant holds after reset. -/
def Obligations.ResetMeetsTheInvariant : Prop := State.reset.Inv

/-- Every step keeps the invariant, whatever the script and the instruction: memory, and the ranges a breach recorded, in their canonical
form, reserved register bits 0, ERRCODE a code of R540, BUSY in step with the engine's phase, DONE and ERR 0 while BUSY. -/
def Obligations.EveryStepKeepsTheInvariant : Prop :=
  ∀ s t : State, s.Inv → step s = .next t → t.Inv

/-- A step of the engine writes no byte outside the output buffer and the arena and makes none unspecified: the input is read only and
the host's other memory is out of reach (R100). -/
def Obligations.EngineWritesOnlyTheOutput : Prop :=
  ∀ s t : State, s.mem.wf = true → s.script = [] → step s = .next t →
    ∀ a, s.inOutput a = false → s.inArena a = false → t.mem.read a = s.mem.read a ∧ t.mem.unknown a = s.mem.unknown a

/-- No step is refused; a recorded Overflow stays (R548); and while BUSY nothing but a hardware reset changes a configuration register
(R34). That the parameters are fields that never change, and that the script loses its head, are the model's choices (log 3, log 1). -/
def Obligations.EveryStepKeepsTheConfiguration : Prop :=
  ∀ s : State, (∀ r, step s ≠ .refused r) ∧
    ∀ t, step s = .next t →
      t.params = s.params ∧ t.script = s.script.tail ∧ (s.overflow = true → t.overflow = true) ∧
      (s.busy = true → s.script.head? ≠ some .reset → t.regs.config = s.regs.config)
end

