-- ==== Sys2Proof/Laws/Act.lean ====
section
/-! SUPPORT. Engine actions: what each combinator answers at a state, what a step of an action can do to the state (`Stays`), and one
spec lemma per shared operation. -/

namespace Sys2Proof.Machine

variable {α β : Type}

/-! ### Running an action -/

@[simp] theorem act_pure (a : α) (s : State) : (pure a : Act α) s = .ok (a, s) := rfl

@[simp] theorem act_bind (m : Act α) (f : α → Act β) (s : State) :
    (m >>= f) s = match m s with
      | .ok p => f p.1 p.2
      | .error e => .error e := by
  change (StateT.bind m f) s = _
  unfold StateT.bind
  cases m s <;> rfl

@[simp] theorem act_map (f : α → β) (m : Act α) (s : State) :
    (f <$> m) s = match m s with
      | .ok p => .ok (f p.1, p.2)
      | .error e => .error e := by
  change (StateT.map f m) s = _
  unfold StateT.map
  cases m s <;> rfl

@[simp] theorem act_get (s : State) : (get : Act State) s = .ok (s, s) := rfl

@[simp] theorem act_update (f : State → State) (s : State) : update f s = .ok ((), f s) := rfl

@[simp] theorem act_raise (e : ErrKind) (s : State) : (raise e : Act α) s = .error (.raise e s) := rfl

@[simp] theorem act_stop (f : Fault) (s : State) : (stop f : Act α) s = .error (.fault f) := rfl

@[simp] theorem act_require (b : Bool) (s : State) :
    require b s = if b then .ok ((), s) else .error (.raise .formatError s) := by
  cases b <;> rfl

@[simp] theorem act_orFormatError (o : Option α) (s : State) :
    orFormatError o s = match o with
      | some a => .ok (a, s)
      | none => .error (.raise .formatError s) := by
  cases o <;> rfl

@[simp] theorem act_orUndefined (w : Unwritten) (o : Option α) (s : State) :
    orUndefined w o s = match o with
      | some a => .ok (a, s)
      | none => .error (.fault (.undefinedRead w)) := by
  cases o <;> rfl

@[simp] theorem act_ite (c : Prop) [Decidable c] (m n : Act α) (s : State) :
    (if c then m else n) s = if c then m s else n s := by
  split <;> rfl

@[simp] theorem act_getBp (s : State) : getBp s = .ok (s.rd.bp, s) := rfl

@[simp] theorem act_setBp (bp : Nat) (s : State) : setBp bp s = .ok ((), { s with rd := { s.rd with bp := bp } }) := rfl

/-- An action as a step. -/
theorem runAct_ok {m : Act Unit} {s t : State} (h : m s = .ok ((), t)) : runAct m s = .next t := by
  simp [runAct, h]

theorem runAct_raise {m : Act Unit} {s t : State} {e : ErrKind} (h : m s = .error (.raise e t)) :
    runAct m s = .next (failEntry e t) := by
  simp [runAct, h]

theorem runAct_fault {m : Act Unit} {s : State} {f : Fault} (h : m s = .error (.fault f)) : runAct m s = .fault f := by
  simp [runAct, h]

/-- Everything a step of an action can do. -/
theorem runAct_cases (m : Act Unit) (s : State) :
    (∃ t, m s = .ok ((), t) ∧ runAct m s = .next t) ∨
    (∃ e t, m s = .error (.raise e t) ∧ runAct m s = .next (failEntry e t)) ∨
    (∃ f, m s = .error (.fault f) ∧ runAct m s = .fault f) := by
  rcases h : m s with e | ⟨⟨⟩, t⟩
  · cases e with
    | raise e t => exact .inr (.inl ⟨e, t, rfl, runAct_raise h⟩)
    | fault f => exact .inr (.inr ⟨f, rfl, runAct_fault h⟩)
  · exact .inl ⟨t, rfl, runAct_ok h⟩

theorem runAct_ne_refused (m : Act Unit) (s : State) (r : Refusal) : runAct m s ≠ .refused r := by
  rcases runAct_cases m s with ⟨t, -, h⟩ | ⟨e, t, -, h⟩ | ⟨f, -, h⟩ <;> rw [h] <;> exact fun h => by cases h

/-! ### What an action can do to the state -/

/-- Wherever the action ends without a model fault, its end state is related to its start. -/
def StaysAt (R : State → State → Prop) (m : Act α) (s : State) : Prop :=
  (∀ a t, m s = .ok (a, t) → R s t) ∧ (∀ e t, m s = .error (.raise e t) → R s t)

/-- `StaysAt` at every state. -/
def Stays (R : State → State → Prop) (m : Act α) : Prop := ∀ s, StaysAt R m s

/-- A relation that an action may be followed by: reflexive and transitive. -/
structure Chain (R : State → State → Prop) : Prop where
  refl  : ∀ s, R s s
  trans : ∀ {s t u}, R s t → R t u → R s u

variable {R : State → State → Prop}

theorem stays_pure (hR : Chain R) (a : α) : Stays R (pure a : Act α) := by
  refine fun s => ⟨fun b t h => ?_, fun e t h => ?_⟩
  · rw [act_pure] at h; cases h; exact hR.refl s
  · rw [act_pure] at h; cases h

theorem stays_bind (hR : Chain R) {m : Act α} {f : α → Act β} (hm : Stays R m) (hf : ∀ a, Stays R (f a)) :
    Stays R (m >>= f) := by
  intro s
  rcases h : m s with e | ⟨a, t⟩
  · refine ⟨fun b u hu => ?_, fun e' u hu => ?_⟩ <;> rw [act_bind, h] at hu
    · cases hu
    · cases hu; exact (hm s).2 _ _ h
  · have h1 := (hm s).1 a t h
    refine ⟨fun b u hu => ?_, fun e' u hu => ?_⟩ <;> rw [act_bind, h] at hu
    · exact hR.trans h1 ((hf a t).1 b u hu)
    · exact hR.trans h1 ((hf a t).2 e' u hu)

theorem stays_map (f : α → β) {m : Act α} (hm : Stays R m) : Stays R (f <$> m) := by
  intro s
  rcases h : m s with e | ⟨a, t⟩
  · refine ⟨fun b u hu => ?_, fun e' u hu => ?_⟩ <;> rw [act_map, h] at hu
    · cases hu
    · cases hu; exact (hm s).2 _ _ h
  · refine ⟨fun b u hu => ?_, fun e' u hu => ?_⟩ <;> rw [act_map, h] at hu
    · cases hu; exact (hm s).1 a _ h
    · cases hu

/-- After `get`, the value read is the state. -/
theorem stays_get_bind {f : State → Act β} (hf : ∀ s, StaysAt R (f s) s) : Stays R (get >>= f) := by
  intro s
  have h : (get >>= f : Act β) s = f s s := by rw [act_bind, act_get]
  exact ⟨fun a t ht => (hf s).1 a t (h ▸ ht), fun e t ht => (hf s).2 e t (h ▸ ht)⟩

theorem stays_get (hR : Chain R) : Stays R (get : Act State) := by
  refine fun s => ⟨fun b t h => ?_, fun e t h => ?_⟩
  · rw [act_get] at h; cases h; exact hR.refl s
  · rw [act_get] at h; cases h

theorem stays_update {f : State → State} (hf : ∀ s, R s (f s)) : Stays R (update f) := by
  refine fun s => ⟨fun b t h => ?_, fun e t h => ?_⟩
  · rw [act_update] at h; cases h; exact hf s
  · rw [act_update] at h; cases h

theorem stays_raise (hR : Chain R) (e : ErrKind) : Stays R (raise e : Act α) := by
  refine fun s => ⟨fun b t h => ?_, fun e t h => ?_⟩
  · rw [act_raise] at h; cases h
  · rw [act_raise] at h; cases h; exact hR.refl s

theorem stays_stop (f : Fault) : Stays R (stop f : Act α) := by
  refine fun s => ⟨fun b t h => ?_, fun e t h => ?_⟩ <;> rw [act_stop] at h <;> cases h

theorem stays_require (hR : Chain R) (b : Bool) : Stays R (require b) := by
  cases b
  · exact stays_raise hR _
  · exact stays_pure hR ()

theorem stays_orFormatError (hR : Chain R) (o : Option α) : Stays R (orFormatError o) := by
  cases o
  · exact stays_raise hR _
  · exact stays_pure hR _

theorem stays_orUndefined (hR : Chain R) (w : Unwritten) (o : Option α) : Stays R (orUndefined w o) := by
  cases o
  · exact stays_stop _
  · exact stays_pure hR _

theorem stays_ite {c : Prop} [Decidable c] {m n : Act α} (hm : Stays R m) (hn : Stays R n) :
    Stays R (if c then m else n) := by
  split
  · exact hm
  · exact hn

/-- A weaker relation. -/
theorem Stays.mono {R' : State → State → Prop} (h : ∀ {s t}, R s t → R' s t) {m : Act α} (hm : Stays R m) : Stays R' m :=
  fun s => ⟨fun a t ht => h ((hm s).1 a t ht), fun e t ht => h ((hm s).2 e t ht)⟩

/-- The end state of an action that stays, as a step: that state, or a failure entry from a related one. -/
theorem runAct_stays {m : Act Unit} (hm : Stays R m) {s t : State} (h : runAct m s = .next t) :
    R s t ∨ ∃ e u, R s u ∧ t = failEntry e u := by
  rcases runAct_cases m s with ⟨u, hu, h'⟩ | ⟨e, u, hu, h'⟩ | ⟨f, -, h'⟩
  · rw [h'] at h; cases h; exact .inl ((hm s).1 _ _ hu)
  · rw [h'] at h; cases h; exact .inr ⟨e, u, (hm s).2 _ _ hu, rfl⟩
  · rw [h'] at h; cases h

end Sys2Proof.Machine
end

