-- ==== Sys2Proof/Laws/Calm.lean ====
section
/-! SUPPORT. What the entropy decoders can do to the state (`Calm`): only the bit reader, the QM coder, the bins, the predictors, the
planes, the block in progress, the free-value counter and the recorded Overflow change. One lemma per action. -/

namespace Sys2Proof.Machine

/-- Everything outside the decoders' own registers and the planes is unchanged, and a recorded Overflow stays. -/
def Calm (s t : State) : Prop :=
  (t.regs = s.regs ∧ t.mem = s.mem ∧ t.params = s.params ∧ t.script = s.script ∧ t.rdata = s.rdata ∧ t.hi = s.hi ∧
    t.enc = s.enc ∧ t.fr = s.fr ∧ t.sc = s.sc ∧ t.tb = s.tb ∧ t.breach = s.breach) ∧
  (t.arena.used = s.arena.used ∧ t.arena.layout = s.arena.layout ∧ t.arena.dcTables = s.arena.dcTables ∧
    t.arena.acTables = s.arena.acTables ∧ t.arena.rs = s.arena.rs ∧ t.arena.acc = s.arena.acc) ∧
  (t.sq.phase = s.sq.phase ∧ t.sq.moff = s.sq.moff ∧ t.sq.ivstart = s.sq.ivstart ∧ t.sq.scanEnd = s.sq.scanEnd ∧
    t.sq.frameIx = s.sq.frameIx ∧ t.sq.scanIx = s.sq.scanIx ∧ t.sq.auxPos = s.sq.auxPos) ∧
  (s.overflow = true → t.overflow = true)

theorem calm_chain : Chain Calm where
  refl s := by simp [Calm]
  trans := by
    rintro s t u ⟨⟨a1, a2, a3, a4, a5, a6, a7, a8, a9, a10, a11⟩, ⟨b1, b2, b3, b4, b5, b6⟩, ⟨c1, c2, c3, c4, c5, c6, c7⟩, d⟩
      ⟨⟨a1', a2', a3', a4', a5', a6', a7', a8', a9', a10', a11'⟩,
        ⟨b1', b2', b3', b4', b5', b6'⟩, ⟨c1', c2', c3', c4', c5', c6', c7'⟩, d'⟩
    exact ⟨⟨a1'.trans a1, a2'.trans a2, a3'.trans a3, a4'.trans a4, a5'.trans a5, a6'.trans a6, a7'.trans a7, a8'.trans a8,
      a9'.trans a9, a10'.trans a10, a11'.trans a11⟩, ⟨b1'.trans b1, b2'.trans b2, b3'.trans b3, b4'.trans b4, b5'.trans b5, b6'.trans b6⟩,
      ⟨c1'.trans c1, c2'.trans c2, c3'.trans c3, c4'.trans c4, c5'.trans c5, c6'.trans c6, c7'.trans c7⟩, fun h => d' (d h)⟩

variable {α β : Type}

@[simp] theorem calm_pure (a : α) : Stays Calm (pure a : Act α) := stays_pure calm_chain a

@[simp] theorem calm_bind {m : Act α} {f : α → Act β} (hm : Stays Calm m) (hf : ∀ a, Stays Calm (f a)) :
    Stays Calm (m >>= f) := stays_bind calm_chain hm hf

@[simp] theorem calm_map (f : α → β) {m : Act α} (hm : Stays Calm m) : Stays Calm (f <$> m) := stays_map f hm

@[simp] theorem calm_get : Stays Calm (get : Act State) := stays_get calm_chain

@[simp] theorem calm_raise (e : ErrKind) : Stays Calm (raise e : Act α) := stays_raise calm_chain e

@[simp] theorem calm_stop (f : Fault) : Stays Calm (stop f : Act α) := stays_stop f

@[simp] theorem calm_undefinedRead (w : Unwritten) : Stays Calm (undefinedRead w : Act α) := stays_stop _

@[simp] theorem calm_require (b : Bool) : Stays Calm (require b) := stays_require calm_chain b

@[simp] theorem calm_orFormatError (o : Option α) : Stays Calm (orFormatError o) := stays_orFormatError calm_chain o

@[simp] theorem calm_orUndefined (w : Unwritten) (o : Option α) : Stays Calm (orUndefined w o) :=
  stays_orUndefined calm_chain w o

@[simp] theorem calm_ite {c : Prop} [Decidable c] {m n : Act α} (hm : Stays Calm m) (hn : Stays Calm n) :
    Stays Calm (if c then m else n) := stays_ite hm hn

theorem calm_update {f : State → State} (hf : ∀ s, Calm s (f s)) : Stays Calm (update f) := stays_update hf

/-! ### Reading the stream -/

theorem calm_load (s : State) (a : Nat) : Calm s (s.load a).2 := by
  unfold State.load
  split
  · exact by simp [Calm]
  · exact calm_chain.refl s

theorem calm_engineLoad (s : State) (a : Nat) : Calm s (s.engineLoad a).2 := by
  unfold State.engineLoad
  split
  · exact by simp [Calm]
  · exact calm_load s a

@[simp] theorem calm_loadByte (a : Nat) : Stays Calm (loadByte a) := by
  refine fun s => ⟨fun b t h => ?_, fun e t h => ?_⟩
  · have h1 : Except.ok (s.engineLoad a) = (Except.ok (b, t) : Except Stop (Byte × State)) := h
    have h3 := calm_engineLoad s a
    rw [Except.ok.inj h1] at h3
    exact h3
  · have h1 : Except.ok (s.engineLoad a) = (Except.error (.raise e t) : Except Stop (Byte × State)) := h
    cases h1

@[simp] theorem calm_memRead1 (off : Nat) : Stays Calm (memRead1 off) := by simp (maxDischargeDepth := 60) [memRead1]

@[simp] theorem calm_memRead2 (off : Nat) : Stays Calm (memRead2 off) := by simp (maxDischargeDepth := 60) [memRead2]

@[simp] theorem calm_checked32 (v : Int) : Stays Calm (checked32 v) := by
  refine fun s => ⟨fun b t h => ?_, fun e t h => ?_⟩ <;> unfold checked32 at h <;> split at h <;> cases h
  · exact calm_chain.refl s
  · exact by simp [Calm]

@[simp] theorem calm_nextBit : Stays Calm nextBit := by
  unfold nextBit
  refine calm_bind calm_get fun s => calm_ite (calm_ite (calm_raise _) ?_) ?_
  · refine calm_bind (calm_memRead1 _) fun b => calm_bind ?_ fun _ => calm_pure _
    exact calm_update fun _ => by simp [Calm]
  · exact calm_bind (calm_update fun _ => by simp [Calm]) fun _ => calm_pure _

@[simp] theorem calm_walkTrie (codes : List Code) : ∀ fuel code len, Stays Calm (walkTrie codes fuel code len)
  | 0, _, _ => by simp (maxDischargeDepth := 60) [walkTrie]
  | fuel + 1, code, len => by
    unfold walkTrie
    refine calm_bind calm_nextBit fun b => ?_
    dsimp only
    split
    · simp
    · exact calm_walkTrie codes fuel _ _

@[simp] theorem calm_decodeHuff (t : Option HuffTable) : Stays Calm (decodeHuff t) := by simp (maxDischargeDepth := 60) [decodeHuff]

@[simp] theorem calm_receiveFrom : ∀ n v, Stays Calm (receiveFrom n v)
  | 0, _ => by simp (maxDischargeDepth := 60) [receiveFrom]
  | n + 1, v => by simp (maxDischargeDepth := 60) [receiveFrom, calm_receiveFrom n]

@[simp] theorem calm_receive (s : Nat) : Stays Calm (receive s) := by simp (maxDischargeDepth := 60) [receive]

/-! ### Blocks and samples -/

@[simp] theorem calm_currentAddress : Stays Calm currentAddress := by simp (maxDischargeDepth := 60) [currentAddress]

@[simp] theorem calm_getBlock (a : Address) : Stays Calm (getBlock a) := by simp (maxDischargeDepth := 60) [getBlock]

@[simp] theorem calm_setBlock (a : Address) (b : Block) : Stays Calm (setBlock a b) :=
  calm_update fun _ => by simp [Calm, State.mapPlane]

@[simp] theorem calm_getCoeff (a : Address) (k : Nat) : Stays Calm (getCoeff a k) := by simp (maxDischargeDepth := 60) [getCoeff]

@[simp] theorem calm_setCoeff (a : Address) (k : Nat) (v : Int) : Stays Calm (setCoeff a k v) := by simp (maxDischargeDepth := 60) [setCoeff]

@[simp] theorem calm_getSample (a : Address) : Stays Calm (getSample a) := by simp (maxDischargeDepth := 60) [getSample]

@[simp] theorem calm_setSample (a : Address) (v : BitVec 16) : Stays Calm (setSample a v) := by
  unfold setSample
  refine calm_bind calm_get fun s => calm_bind (calm_orUndefined _ _) fun _ => calm_update fun _ => ?_
  exact by simp [Calm, State.mapPlane]

/-! ### Symbols -/

@[simp] theorem calm_theBlock : Stays Calm theBlock := by simp (maxDischargeDepth := 60) [theBlock]

@[simp] theorem calm_setOpen (b : OpenBlock) : Stays Calm (setOpen b) := calm_update fun _ => by simp (maxDischargeDepth := 60) [Calm]

@[simp] theorem calm_closeBlock : Stays Calm closeBlock := calm_update fun _ => by simp (maxDischargeDepth := 60) [Calm]

@[simp] theorem calm_moveTo (b : OpenBlock) (k : Nat) : Stays Calm (moveTo b k) := by simp (maxDischargeDepth := 60) [moveTo]

@[simp] theorem calm_predictDc (c : Nat) (diff : Int) : Stays Calm (predictDc c diff) := by
  unfold predictDc
  refine calm_bind calm_get fun s => calm_ite (calm_checked32 _) ?_
  refine calm_bind (calm_checked32 _) fun v => calm_bind ?_ fun _ => calm_pure _
  exact calm_update fun _ => by simp [Calm]

@[simp] theorem calm_storeShifted (a : Address) (k : Nat) (v : Int) : Stays Calm (storeShifted a k v) := by simp (maxDischargeDepth := 60) [storeShifted]

@[simp] theorem calm_dcCategoryAct (t : Nat) : Stays Calm (dcCategoryAct t) := by simp (maxDischargeDepth := 60) [dcCategoryAct]

@[simp] theorem calm_correct (a : Address) (k : Nat) : Stays Calm (correct a k) := by simp (maxDischargeDepth := 60) [correct]

@[simp] theorem calm_eobPass (a : Address) : ∀ fuel k, Stays Calm (eobPass a fuel k)
  | 0, _ => by simp (maxDischargeDepth := 60) [eobPass]
  | fuel + 1, k => by simp (maxDischargeDepth := 60) [eobPass, calm_eobPass a fuel]

@[simp] theorem calm_setEobrun (n : Nat) : Stays Calm (setEobrun n) := calm_update fun _ => by simp (maxDischargeDepth := 60) [Calm]

@[simp] theorem calm_eobBlock (a : Address) (k : Nat) : Stays Calm (eobBlock a k) := by simp (maxDischargeDepth := 60) [eobBlock]

@[simp] theorem calm_endOfBandAct (r : Nat) : Stays Calm (endOfBandAct r) := by simp (maxDischargeDepth := 60) [endOfBandAct]

@[simp] theorem calm_refineSkip (a : Address) : ∀ fuel k r, Stays Calm (refineSkip a fuel k r)
  | 0, _, _ => by simp (maxDischargeDepth := 60) [refineSkip]
  | fuel + 1, k, r => by simp (maxDischargeDepth := 60) [refineSkip, calm_refineSkip a fuel]

@[simp] theorem calm_zrlAct : Stays Calm zrlAct := by simp (maxDischargeDepth := 60) [zrlAct]

@[simp] theorem calm_coeffAct (r sz : Nat) : Stays Calm (coeffAct r sz) := by simp (maxDischargeDepth := 60) [coeffAct]

@[simp] theorem calm_predictSample (a : Address) : Stays Calm (predictSample a) := by simp (maxDischargeDepth := 60) [predictSample]

@[simp] theorem calm_storeSample (a : Address) (diff : Int) : Stays Calm (storeSample a diff) := by
  unfold storeSample
  refine calm_bind (calm_predictSample a) fun px => calm_bind (calm_setSample _ _) fun _ => ?_
  exact calm_update fun _ => by simp [Calm]

@[simp] theorem calm_losslessDiffAct (t : Nat) : Stays Calm (losslessDiffAct t) := by simp (maxDischargeDepth := 60) [losslessDiffAct]

@[simp] theorem calm_fetchSymbol : Stays Calm fetchSymbol := by simp (maxDischargeDepth := 60) [fetchSymbol]

@[simp] theorem calm_symbolAct (i : Instr) : Stays Calm (symbolAct i) := by
  cases i <;> simp [symbolAct]

@[simp] theorem calm_runSymbols : ∀ fuel, Stays Calm (runSymbols fuel)
  | 0 => by simp (maxDischargeDepth := 60) [runSymbols]
  | fuel + 1 => by simp (maxDischargeDepth := 60) [runSymbols, calm_runSymbols fuel]

/-! ### The Huffman routines -/

@[simp] theorem calm_hufSeqAct : Stays Calm hufSeqAct := by simp (maxDischargeDepth := 60) [hufSeqAct]

@[simp] theorem calm_hufDcFirstAct : Stays Calm hufDcFirstAct := by simp (maxDischargeDepth := 60) [hufDcFirstAct]

@[simp] theorem calm_hufDcRefineAct : Stays Calm hufDcRefineAct := by simp (maxDischargeDepth := 60) [hufDcRefineAct]

@[simp] theorem calm_runBand (b : OpenBlock) : Stays Calm (runBand b) := by simp (maxDischargeDepth := 60) [runBand]

@[simp] theorem calm_hufAcFirstAct : Stays Calm hufAcFirstAct := by simp (maxDischargeDepth := 60) [hufAcFirstAct]

@[simp] theorem calm_hufAcRefineAct : Stays Calm hufAcRefineAct := by simp (maxDischargeDepth := 60) [hufAcRefineAct]

@[simp] theorem calm_rowStart (a : Address) : Stays Calm (rowStart a) :=
  calm_update fun s => by
    split
    · exact by simp [Calm]
    · exact calm_chain.refl s

@[simp] theorem calm_hufLosslessAct : Stays Calm hufLosslessAct := by simp (maxDischargeDepth := 60) [hufLosslessAct]

/-! ### The QM coder and the arithmetic routines -/

@[simp] theorem calm_byteIn : Stays Calm byteIn := by
  unfold byteIn
  refine calm_bind calm_get fun s => calm_ite ?_ ?_
  · exact calm_bind (calm_update fun _ => by simp [Calm]) fun _ => calm_pure _
  · refine calm_bind (calm_memRead1 _) fun b => calm_bind ?_ fun _ => calm_pure _
    exact calm_update fun _ => by simp [Calm]

@[simp] theorem calm_renormRound : Stays Calm renormRound := by
  unfold renormRound
  refine calm_bind calm_get fun s => calm_ite ?_ ?_
  · refine calm_bind calm_byteIn fun b => ?_
    exact calm_update fun _ => by simp [Calm]
  · exact calm_update fun _ => by simp [Calm]

@[simp] theorem calm_renorm : ∀ fuel, Stays Calm (renorm fuel)
  | 0 => by simp (maxDischargeDepth := 60) [renorm]
  | fuel + 1 => by simp (maxDischargeDepth := 60) [renorm, calm_renorm fuel]

@[simp] theorem calm_arithDecode (bin : Bin) : Stays Calm (arithDecode bin) := by
  unfold arithDecode
  refine calm_bind (calm_renorm _) fun _ => calm_bind calm_get fun s => ?_
  refine calm_bind ?_ fun _ => calm_pure _
  exact calm_update fun _ => by simp [Calm]

@[simp] theorem calm_magnitude (bin : Nat → Bin) : ∀ fuel i m, Stays Calm (magnitude bin fuel i m)
  | 0, _, _ => by simp (maxDischargeDepth := 60) [magnitude]
  | fuel + 1, i, m => by simp (maxDischargeDepth := 60) [magnitude, calm_magnitude bin fuel]

@[simp] theorem calm_magnitudeBits (bin : Bin) : ∀ fuel b v, Stays Calm (magnitudeBits bin fuel b v)
  | 0, _, _ => by simp (maxDischargeDepth := 60) [magnitudeBits]
  | fuel + 1, b, v => by simp (maxDischargeDepth := 60) [magnitudeBits, calm_magnitudeBits bin fuel]

@[simp] theorem calm_diffCategory (bin : Nat → Bin) (s0 x1 : Nat) : Stays Calm (diffCategory bin s0 x1) := by
  simp (maxDischargeDepth := 60) [diffCategory]

@[simp] theorem calm_diffValue (bin : Nat → Bin) (sign : Bool) (m i : Nat) : Stays Calm (diffValue bin sign m i) := by
  simp (maxDischargeDepth := 60) [diffValue]

@[simp] theorem calm_setDcCtx (c x : Nat) : Stays Calm (setDcCtx c x) := calm_update fun _ => by simp (maxDischargeDepth := 60) [Calm]

@[simp] theorem calm_decodeDcDiff (c : Nat) : Stays Calm (decodeDcDiff c) := by simp (maxDischargeDepth := 60) [decodeDcDiff]

@[simp] theorem calm_decodeAcValue (c k : Nat) : Stays Calm (decodeAcValue c k) := by simp (maxDischargeDepth := 60) [decodeAcValue]

@[simp] theorem calm_decodeDiffLl (t s0 xbase : Nat) : Stays Calm (decodeDiffLl t s0 xbase) := by simp (maxDischargeDepth := 60) [decodeDiffLl]

@[simp] theorem calm_zeroRun (bin : Nat → Bin) (last : Nat) : ∀ fuel k, Stays Calm (zeroRun bin last fuel k)
  | 0, _ => by simp (maxDischargeDepth := 60) [zeroRun]
  | fuel + 1, k => by simp (maxDischargeDepth := 60) [zeroRun, calm_zeroRun bin last fuel]

theorem calm_ariBand (a : Address) (bin : Nat → Bin) (last : Nat) {store : Nat → Int → Act Unit}
    (hs : ∀ k v, Stays Calm (store k v)) : ∀ fuel k, Stays Calm (ariBand a bin last store fuel k)
  | 0, _ => by simp (maxDischargeDepth := 60) [ariBand]
  | fuel + 1, k => by simp (maxDischargeDepth := 60) [ariBand, hs, calm_ariBand a bin last hs fuel]

@[simp] theorem calm_ariSeqAct : Stays Calm ariSeqAct := by simp (maxDischargeDepth := 60) [ariSeqAct, calm_ariBand]

@[simp] theorem calm_ariDcFirstAct : Stays Calm ariDcFirstAct := by simp (maxDischargeDepth := 60) [ariDcFirstAct]

@[simp] theorem calm_ariDcRefineAct : Stays Calm ariDcRefineAct := by simp (maxDischargeDepth := 60) [ariDcRefineAct]

@[simp] theorem calm_ariAcFirstAct : Stays Calm ariAcFirstAct := by simp (maxDischargeDepth := 60) [ariAcFirstAct, calm_ariBand]

@[simp] theorem calm_refineRun (a : Address) (bin : Nat → Bin) (last : Nat) (p1 : Int) :
    ∀ fuel k, Stays Calm (refineRun a bin last p1 fuel k)
  | 0, _ => by simp (maxDischargeDepth := 60) [refineRun]
  | fuel + 1, k => by simp (maxDischargeDepth := 60) [refineRun, calm_refineRun a bin last p1 fuel]

@[simp] theorem calm_refineBand (a : Address) (bin : Nat → Bin) (last kex : Nat) (p1 : Int) :
    ∀ fuel k, Stays Calm (refineBand a bin last kex p1 fuel k)
  | 0, _ => by simp (maxDischargeDepth := 60) [refineBand]
  | fuel + 1, k => by simp (maxDischargeDepth := 60) [refineBand, calm_refineBand a bin last kex p1 fuel]

@[simp] theorem calm_ariAcRefineAct : Stays Calm ariAcRefineAct := by simp (maxDischargeDepth := 60) [ariAcRefineAct]

@[simp] theorem calm_ariLosslessAct : Stays Calm ariLosslessAct := by simp (maxDischargeDepth := 60) [ariLosslessAct]

end Sys2Proof.Machine
end

