-- ==== Sys2Proof/Laws/Memory.lean ====
section
/-! SUPPORT. Host memory: every operation keeps the canonical form, and what a read gives after each (R100, R112). -/

namespace Sys2Proof.Machine

theorem cellsFrom_mono {lo lo' : Nat} (h : lo' ≤ lo) : ∀ {l : List Host.Cell}, cellsFrom lo l = true → cellsFrom lo' l = true
  | [], _ => rfl
  | (a, v) :: t, hl => by
    simp only [cellsFrom, Bool.and_eq_true, decide_eq_true_eq] at hl ⊢
    exact ⟨⟨le_trans h hl.1.1, hl.1.2⟩, hl.2⟩

theorem cellsRead_below {lo : Nat} : ∀ {l : List Host.Cell}, cellsFrom lo l = true → ∀ {a : Nat}, a < lo → cellsRead l a = 0
  | [], _, _, _ => rfl
  | (x, v) :: t, hl, a, ha => by
    simp only [cellsFrom, Bool.and_eq_true, decide_eq_true_eq] at hl
    simp only [cellsRead]
    rw [if_neg (by omega)]
    exact cellsRead_below hl.2 (by omega)

theorem cellsFrom_write {lo : Nat} : ∀ {l : List Host.Cell}, cellsFrom lo l = true → ∀ {a : Nat}, lo ≤ a → ∀ b : Byte,
    cellsFrom lo (cellsWrite l a b) = true
  | [], _, a, ha, b => by
    change cellsFrom lo (if b = 0 then [] else [(a, b)]) = true
    by_cases hb : b = 0
    · rw [if_pos hb]; rfl
    · rw [if_neg hb]; simpa [cellsFrom, ha] using hb
  | (x, v) :: t, hl, a, ha, b => by
    have h2 := hl
    simp only [cellsFrom, Bool.and_eq_true, decide_eq_true_eq] at hl
    obtain ⟨⟨hx, hv⟩, ht⟩ := hl
    simp only [cellsWrite]
    by_cases h : a < x
    · rw [if_pos h]
      by_cases hb : b = 0
      · rw [if_pos hb]; exact h2
      · rw [if_neg hb]
        simp only [cellsFrom, Bool.and_eq_true, decide_eq_true_eq]
        exact ⟨⟨ha, hb⟩, ⟨by omega, hv⟩, ht⟩
    · rw [if_neg h]
      by_cases he : a = x
      · rw [if_pos he]
        by_cases hb : b = 0
        · rw [if_pos hb]; exact cellsFrom_mono (by omega) ht
        · rw [if_neg hb]
          simp only [cellsFrom, Bool.and_eq_true, decide_eq_true_eq]
          exact ⟨⟨ha, hb⟩, by rw [he]; exact ht⟩
      · rw [if_neg he]
        simp only [cellsFrom, Bool.and_eq_true, decide_eq_true_eq]
        exact ⟨⟨hx, hv⟩, cellsFrom_write ht (by omega) b⟩

theorem cellsRead_write {lo : Nat} : ∀ {l : List Host.Cell}, cellsFrom lo l = true → ∀ (a : Nat) (b : Byte) (a' : Nat),
    cellsRead (cellsWrite l a b) a' = if a' = a then b else cellsRead l a'
  | [], _, a, b, a' => by
    by_cases hb : b = 0
    · subst hb; simp [cellsWrite, cellsRead]
    · change cellsRead (if b = 0 then [] else [(a, b)]) a' = _
      rw [if_neg hb]; rfl
  | (x, v) :: t, hl, a, b, a' => by
    have h2 := hl
    simp only [cellsFrom, Bool.and_eq_true, decide_eq_true_eq] at hl
    obtain ⟨⟨hx, hv⟩, ht⟩ := hl
    simp only [cellsWrite]
    by_cases h : a < x
    · rw [if_pos h]
      by_cases hb : b = 0
      · rw [if_pos hb]
        by_cases he : a' = a
        · rw [if_pos he, hb, he]
          simp only [cellsRead]
          rw [if_neg (by omega)]
          exact cellsRead_below ht (by omega)
        · rw [if_neg he]
      · rw [if_neg hb]; rfl
    · rw [if_neg h]
      by_cases he : a = x
      · rw [if_pos he]
        by_cases hb : b = 0
        · rw [if_pos hb]
          by_cases h' : a' = a
          · rw [if_pos h', hb, h']; exact cellsRead_below ht (by omega)
          · rw [if_neg h']; simp only [cellsRead]; rw [if_neg (by omega)]
        · rw [if_neg hb]; subst he; simp only [cellsRead]
          by_cases h' : a' = a <;> simp [h']
      · rw [if_neg he]
        simp only [cellsRead]
        rw [cellsRead_write ht a b a']
        by_cases hx' : a' = x
        · subst hx'; rw [if_pos rfl, if_neg (by omega), if_pos rfl]
        · rw [if_neg hx', if_neg hx']

theorem rangesFrom_mono {lo lo' : Nat} (h : lo' ≤ lo) : ∀ {l : List (Nat × Nat)}, rangesFrom lo l = true → rangesFrom lo' l = true
  | [], _ => rfl
  | (a, b) :: t, hl => by
    simp only [rangesFrom, Bool.and_eq_true, decide_eq_true_eq] at hl ⊢
    exact ⟨⟨le_trans h hl.1.1, hl.1.2⟩, hl.2⟩

theorem inRanges_below {lo : Nat} : ∀ {l : List (Nat × Nat)}, rangesFrom lo l = true → ∀ {a : Nat}, a < lo → inRanges l a = false
  | [], _, _, _ => rfl
  | (x, y) :: t, hl, a, ha => by
    simp only [rangesFrom, Bool.and_eq_true, decide_eq_true_eq] at hl
    have := inRanges_below hl.2 (a := a) (by omega)
    have hxa : ¬ x ≤ a := by omega
    simp [inRanges, this, hxa]

theorem rangesFrom_carve {lo : Nat} : ∀ {l : List (Nat × Nat)}, rangesFrom lo l = true → ∀ a : Nat, rangesFrom lo (carve l a) = true
  | [], _, _ => rfl
  | (x, y) :: t, hl, a => by
    simp only [rangesFrom, Bool.and_eq_true, decide_eq_true_eq] at hl
    obtain ⟨⟨hx, hy⟩, ht⟩ := hl
    simp only [carve]
    by_cases h : x ≤ a ∧ a < y
    · rw [if_pos h]
      by_cases h1 : x < a <;> by_cases h2 : a + 1 < y <;>
        simp only [h1, h2, if_true, if_false, List.cons_append, List.nil_append, rangesFrom, Bool.and_eq_true, decide_eq_true_eq]
      · exact ⟨⟨hx, trivial⟩, ⟨⟨by omega, trivial⟩, ht⟩⟩
      · exact ⟨⟨hx, trivial⟩, rangesFrom_mono (by omega) ht⟩
      · exact ⟨⟨by omega, trivial⟩, ht⟩
      · exact rangesFrom_mono (by omega) ht
    · rw [if_neg h]
      simp only [rangesFrom, Bool.and_eq_true, decide_eq_true_eq]
      exact ⟨⟨hx, hy⟩, rangesFrom_carve ht a⟩

theorem inRanges_carve {lo : Nat} : ∀ {l : List (Nat × Nat)}, rangesFrom lo l = true → ∀ a a' : Nat,
    inRanges (carve l a) a' = (!decide (a' = a) && inRanges l a')
  | [], _, _, _ => by simp [carve, inRanges]
  | (x, y) :: t, hl, a, a' => by
    simp only [rangesFrom, Bool.and_eq_true, decide_eq_true_eq] at hl
    obtain ⟨⟨hx, hy⟩, ht⟩ := hl
    simp only [carve]
    by_cases h : x ≤ a ∧ a < y
    · rw [if_pos h]
      have hb : inRanges t a' = true → y < a' := by
        intro hq
        by_contra hn
        rw [inRanges_below ht (by omega)] at hq
        exact Bool.false_ne_true hq
      by_cases h1 : x < a <;> by_cases h2 : a + 1 < y <;>
        simp only [h1, h2, if_true, if_false, List.cons_append, List.nil_append, inRanges] <;>
        rw [Bool.eq_iff_iff] <;>
        generalize inRanges t a' = q at hb <;>
        cases q <;>
        simp only [Bool.or_eq_true, Bool.and_eq_true, decide_eq_true_eq, Bool.not_eq_true', decide_eq_false_iff_not,
          Bool.false_eq_true, or_false, or_true, and_true, true_iff, false_iff, forall_const] at hb ⊢ <;>
        omega
    · rw [if_neg h]
      simp only [inRanges, inRanges_carve ht a a']
      by_cases he : a' = a
      · subst he
        have : (decide (x ≤ a') && decide (a' < y)) = false := by
          simpa [Bool.and_eq_true, decide_eq_true_eq] using h
        simp [this]
      · simp [he]

theorem rangesFrom_addRange {lo : Nat} : ∀ {l : List (Nat × Nat)}, rangesFrom lo l = true → ∀ {a b : Nat}, lo ≤ a → a < b →
    rangesFrom lo (addRange l a b) = true
  | [], _, a, b, ha, hb => by simp [addRange, rangesFrom, ha, hb]
  | (x, y) :: t, hl, a, b, ha, hb => by
    simp only [rangesFrom, Bool.and_eq_true, decide_eq_true_eq] at hl
    obtain ⟨⟨hx, hy⟩, ht⟩ := hl
    simp only [addRange]
    by_cases h : y < a
    · rw [if_pos h]
      simp only [rangesFrom, Bool.and_eq_true, decide_eq_true_eq]
      exact ⟨⟨hx, hy⟩, rangesFrom_addRange ht (by omega) hb⟩
    · rw [if_neg h]
      by_cases h' : b < x
      · rw [if_pos h']
        simp only [rangesFrom, Bool.and_eq_true, decide_eq_true_eq]
        exact ⟨⟨ha, hb⟩, ⟨by omega, hy⟩, ht⟩
      · rw [if_neg h']
        exact rangesFrom_addRange (rangesFrom_mono (by omega) ht) (by omega) (by omega)

theorem inRanges_addRange {lo : Nat} : ∀ {l : List (Nat × Nat)}, rangesFrom lo l = true → ∀ {a b : Nat}, a < b → ∀ c : Nat,
    inRanges (addRange l a b) c = ((decide (a ≤ c) && decide (c < b)) || inRanges l c)
  | [], _, a, b, _, c => by simp [addRange, inRanges]
  | (x, y) :: t, hl, a, b, hb, c => by
    simp only [rangesFrom, Bool.and_eq_true, decide_eq_true_eq] at hl
    obtain ⟨⟨hx, hy⟩, ht⟩ := hl
    simp only [addRange]
    by_cases h : y < a
    · rw [if_pos h]
      simp only [inRanges, inRanges_addRange ht hb c]
      rw [Bool.or_left_comm]
    · rw [if_neg h]
      by_cases h' : b < x
      · rw [if_pos h']; rfl
      · rw [if_neg h']
        rw [inRanges_addRange ht (by omega) c]
        simp only [inRanges]
        rw [← Bool.or_assoc]
        congr 1
        rw [Bool.eq_iff_iff]
        simp only [Bool.or_eq_true, Bool.and_eq_true, decide_eq_true_eq]
        omega

/-! ### Memory -/

/-- The canonical form as a conjunction. -/
theorem Memory.wf_iff (m : Memory) : m.wf = true ↔
    cellsFrom 0 m.cells = true ∧ rangesFrom 0 m.unspec = true ∧ ∀ c ∈ m.cells, inRanges m.unspec c.1 = false := by
  simp [Memory.wf, and_assoc]

theorem mem_cellsWrite : ∀ {l : List Host.Cell} {a : Nat} {b : Byte} {c : Host.Cell}, c ∈ cellsWrite l a b → c = (a, b) ∨ c ∈ l
  | [], a, b, c, h => by
    by_cases hb : b = 0 <;> simp_all [cellsWrite]
  | (x, v) :: t, a, b, c, h => by
    simp only [cellsWrite] at h
    split at h
    · split at h
      · exact .inr h
      · rcases List.mem_cons.1 h with h | h
        · exact .inl h
        · exact .inr h
    · split at h
      · split at h
        · exact .inr (List.mem_cons_of_mem _ h)
        · rcases List.mem_cons.1 h with h | h
          · exact .inl h
          · exact .inr (List.mem_cons_of_mem _ h)
      · rcases List.mem_cons.1 h with h | h
        · exact .inr (by rw [h]; exact List.mem_cons_self ..)
        · rcases mem_cellsWrite h with h | h
          · exact .inl h
          · exact .inr (List.mem_cons_of_mem _ h)

/-- A write keeps the canonical form. -/
theorem Memory.write_wf {m : Memory} (h : m.wf = true) (a : Nat) (b : Byte) : (m.write a b).wf = true := by
  rw [Memory.wf_iff] at h ⊢
  obtain ⟨hc, hr, ho⟩ := h
  refine ⟨cellsFrom_write hc (Nat.zero_le _) b, rangesFrom_carve hr a, ?_⟩
  intro c hm
  rw [Memory.write, inRanges_carve hr]
  rcases mem_cellsWrite hm with rfl | hm
  · simp
  · simp [ho c hm]

theorem cellsFrom_filter {lo : Nat} (p : Host.Cell → Bool) : ∀ {l : List Host.Cell}, cellsFrom lo l = true →
    cellsFrom lo (l.filter p) = true
  | [], _ => rfl
  | (x, v) :: t, hl => by
    simp only [cellsFrom, Bool.and_eq_true, decide_eq_true_eq] at hl
    obtain ⟨⟨hx, hv⟩, ht⟩ := hl
    rw [List.filter_cons]
    have := cellsFrom_filter p ht
    split
    · simp only [cellsFrom, Bool.and_eq_true, decide_eq_true_eq]; exact ⟨⟨hx, hv⟩, this⟩
    · exact cellsFrom_mono (by omega) this

/-- Forgetting a range keeps the canonical form. -/
theorem Memory.forget_wf {m : Memory} (h : m.wf = true) (base len : Nat) : (m.forget base len).wf = true := by
  unfold Memory.forget
  split
  · exact h
  · rw [Memory.wf_iff] at h ⊢
    obtain ⟨hc, hr, ho⟩ := h
    refine ⟨cellsFrom_filter _ hc, rangesFrom_addRange hr (Nat.zero_le _) (by omega), ?_⟩
    intro c hm
    rw [List.mem_filter] at hm
    rw [inRanges_addRange hr (by omega), ho c hm.1]
    have := hm.2
    simp only [Bool.not_eq_true', Bool.and_eq_false_iff, decide_eq_false_iff_not] at this
    simp only [Bool.or_false, Bool.and_eq_false_iff, decide_eq_false_iff_not]
    exact this

/-- Bytes written one after another keep the canonical form. -/
theorem Memory.writeList_wf : ∀ (bs : List Byte) {m : Memory} (_ : m.wf = true) (a : Nat), (m.writeList a bs).wf = true
  | [], _, h, _ => h
  | b :: bs, _, h, a => Memory.writeList_wf bs (Memory.write_wf h a b) (a + 1)

/-- What a read gives after a write. -/
theorem Memory.read_write {m : Memory} (h : m.wf = true) (a : Nat) (b : Byte) (c : Nat) :
    (m.write a b).read c = if c = a then b else m.read c :=
  cellsRead_write ((Memory.wf_iff m).1 h).1 a b c

/-- A written address is specified; the others are as before. -/
theorem Memory.unknown_write {m : Memory} (h : m.wf = true) (a : Nat) (b : Byte) (c : Nat) :
    (m.write a b).unknown c = (!decide (c = a) && m.unknown c) :=
  inRanges_carve ((Memory.wf_iff m).1 h).2.1 a c

/-- A forgotten range is unspecified; the other addresses are as before. -/
theorem Memory.unknown_forget {m : Memory} (h : m.wf = true) (base len c : Nat) :
    (m.forget base len).unknown c = ((decide (base ≤ c) && decide (c < base + len)) || m.unknown c) := by
  unfold Memory.forget
  split
  · rename_i h0; subst h0
    have : (decide (base ≤ c) && decide (c < base + 0)) = false := by
      simp only [Bool.and_eq_false_iff, decide_eq_false_iff_not]; omega
    rw [this]; rfl
  · exact inRanges_addRange ((Memory.wf_iff m).1 h).2.1 (by omega) c

theorem cellsRead_filter {p : Host.Cell → Bool} {a : Nat} (hp : ∀ v, p (a, v) = true) : ∀ l : List Host.Cell,
    cellsRead (l.filter p) a = cellsRead l a
  | [] => rfl
  | (x, v) :: t => by
    rw [List.filter_cons]
    by_cases hx : a = x
    · subst hx; rw [if_pos (hp v)]; simp [cellsRead]
    · split
      · simp only [cellsRead, if_neg hx]; exact cellsRead_filter hp t
      · simp only [cellsRead, if_neg hx]; exact cellsRead_filter hp t

/-- Forgetting a range leaves the bytes outside it. -/
theorem Memory.read_forget (m : Memory) (base len c : Nat) (h : ¬ (base ≤ c ∧ c < base + len)) :
    (m.forget base len).read c = m.read c := by
  unfold Memory.forget
  split
  · rfl
  · refine cellsRead_filter ?_ _
    intro v
    simp only [Bool.not_eq_true', Bool.and_eq_false_iff, decide_eq_false_iff_not]
    omega

/-- A byte outside the written addresses reads as before. -/
theorem Memory.read_writeList_outside : ∀ (bs : List Byte) {m : Memory} (_ : m.wf = true) (a c : Nat),
    ¬ (a ≤ c ∧ c < a + bs.length) → (m.writeList a bs).read c = m.read c
  | [], _, _, _, _, _ => rfl
  | b :: bs, m, h, a, c, hc => by
    have hc' : ¬ (a ≤ c ∧ c < a + (bs.length + 1)) := hc
    rw [Memory.writeList, Memory.read_writeList_outside bs (Memory.write_wf h a b) (a + 1) c (by omega),
      Memory.read_write h, if_neg (by omega)]

/-- Byte `i` of the written bytes reads back. -/
theorem Memory.read_writeList_inside : ∀ (bs : List Byte) {m : Memory} (_ : m.wf = true) (a i : Nat) (hi : i < bs.length),
    (m.writeList a bs).read (a + i) = bs[i]
  | [], _, _, _, _, hi => absurd hi (by simp)
  | b :: bs, m, h, a, 0, _ => by
    rw [Memory.writeList, Memory.read_writeList_outside bs (Memory.write_wf h a b) (a + 1) (a + 0) (by omega),
      Memory.read_write h]
    simp
  | b :: bs, m, h, a, i + 1, hi => by
    have := Memory.read_writeList_inside bs (Memory.write_wf h a b) (a + 1) i (by simpa using hi)
    rw [Memory.writeList, show a + (i + 1) = a + 1 + i by omega, this]
    simp

/-- Forgetting a range specifies and unspecifies nothing outside it, and keeps the bytes there. -/
theorem Memory.forget_outside {m : Memory} (h : m.wf = true) {base len c : Nat} (hc : ¬ (base ≤ c ∧ c < base + len)) :
    (m.forget base len).read c = m.read c ∧ (m.forget base len).unknown c = m.unknown c := by
  refine ⟨Memory.read_forget m base len c hc, ?_⟩
  rw [Memory.unknown_forget h]
  have : (decide (base ≤ c) && decide (c < base + len)) = false := by
    simp only [Bool.and_eq_false_iff, decide_eq_false_iff_not]; omega
  rw [this, Bool.false_or]

/-- Bytes stored by the engine keep the canonical form. -/
theorem Memory.storeList_wf (out : List (Nat × Nat)) : ∀ (bs : List Byte) {m : Memory} (_ : m.wf = true) (a : Nat),
    (Memory.storeList out m a bs).wf = true
  | [], _, h, _ => h
  | b :: bs, m, h, a => by
    refine Memory.storeList_wf out bs ?_ (a + 1)
    split
    · exact Memory.forget_wf h a 1
    · exact Memory.write_wf h a b

/-- Bytes stored by the engine leave every other byte. -/
theorem Memory.storeList_outside (out : List (Nat × Nat)) : ∀ (bs : List Byte) {m : Memory} (_ : m.wf = true) (a c : Nat),
    ¬ (a ≤ c ∧ c < a + bs.length) → (Memory.storeList out m a bs).read c = m.read c ∧
      (Memory.storeList out m a bs).unknown c = m.unknown c
  | [], _, _, _, _, _ => ⟨rfl, rfl⟩
  | b :: bs, m, h, a, c, hc => by
    have hc' : ¬ (a ≤ c ∧ c < a + (bs.length + 1)) := hc
    rw [Memory.storeList]
    by_cases ho : inRanges out a = true
    · rw [if_pos ho]
      have h1 := Memory.storeList_outside out bs (Memory.forget_wf h a 1) (a + 1) c (by omega)
      have h2 := Memory.forget_outside h (base := a) (len := 1) (c := c) (by omega)
      exact ⟨h1.1.trans h2.1, h1.2.trans h2.2⟩
    · rw [if_neg ho]
      have h1 := Memory.storeList_outside out bs (Memory.write_wf h a b) (a + 1) c (by omega)
      refine ⟨h1.1.trans ?_, h1.2.trans ?_⟩
      · rw [Memory.read_write h, if_neg (by omega)]
      · have hne : c ≠ a := by omega
        rw [Memory.unknown_write h]; simp [hne]

/-- A byte stored by the engine is unspecified where the host wrote it in this operation, and reads back elsewhere. -/
theorem Memory.storeList_inside (out : List (Nat × Nat)) : ∀ (bs : List Byte) {m : Memory} (_ : m.wf = true) (a i : Nat)
    (hi : i < bs.length), if inRanges out (a + i) then (Memory.storeList out m a bs).unknown (a + i) = true
      else (Memory.storeList out m a bs).read (a + i) = bs[i] ∧ (Memory.storeList out m a bs).unknown (a + i) = false
  | [], _, _, _, _, hi => absurd hi (by simp)
  | b :: bs, m, h, a, 0, _ => by
    rw [Memory.storeList]
    by_cases ho : inRanges out a = true
    · have h1 := Memory.storeList_outside out bs (Memory.forget_wf h a 1) (a + 1) (a + 0) (by omega)
      simp only [Nat.add_zero, if_pos ho] at h1 ⊢
      rw [h1.2, Memory.unknown_forget h]; simp
    · have h1 := Memory.storeList_outside out bs (Memory.write_wf h a b) (a + 1) (a + 0) (by omega)
      simp only [Nat.add_zero, if_neg ho] at h1 ⊢
      rw [h1.1, h1.2, Memory.read_write h, Memory.unknown_write h]; simp
  | b :: bs, m, h, a, i + 1, hi => by
    have hi' : i < bs.length := by simpa using hi
    rw [Memory.storeList, show a + (i + 1) = a + 1 + i by omega]
    have hw : (if inRanges out a then m.forget a 1 else m.write a b).wf = true := by
      split
      · exact Memory.forget_wf h a 1
      · exact Memory.write_wf h a b
    exact Memory.storeList_inside out bs hw (a + 1) i hi'

/-- The memory of the reset state has the canonical form. -/
theorem reset_mem_wf : State.reset.mem.wf = true := rfl

end Sys2Proof.Machine
end

