-- ==== Sys2Proof/Laws/Flow.lean ====
section
/-! SUPPORT. What any engine action can do to the state (`Flow`): parameters, script, host reads, the record of breaches and the host's own
registers stay;
reserved register bits, the canonical form of memory and a phase that is not idle are kept; no byte outside the output buffer
and the arena changes. One lemma per action. -/

namespace Sys2Proof.Machine

/-- What every engine action keeps, up to the end of the operation. -/
def Flow (s t : State) : Prop :=
  (t.params = s.params ∧ t.script = s.script ∧ t.rdata = s.rdata ∧ t.breach = s.breach) ∧
  (t.regs.ctrl = s.regs.ctrl ∧ t.regs.status = s.regs.status ∧ t.regs.errcode = s.regs.errcode ∧
    t.regs.inBase = s.regs.inBase ∧ t.regs.inLen = s.regs.inLen ∧ t.regs.outBase = s.regs.outBase ∧
    t.regs.outLen = s.regs.outLen ∧ t.regs.scrBase = s.regs.scrBase ∧ t.regs.scrLen = s.regs.scrLen ∧
    t.regs.sizeLimit = s.regs.sizeLimit) ∧
  (s.overflow = true → t.overflow = true) ∧
  (s.regs.ok → t.regs.ok) ∧
  (s.sq.phase ≠ .idle → t.sq.phase ≠ .idle) ∧
  (s.mem.wf = true → t.mem.wf = true ∧
    ∀ a, s.inOutput a = false → s.inArena a = false → t.mem.read a = s.mem.read a ∧ t.mem.unknown a = s.mem.unknown a)

theorem flow_chain : Chain Flow where
  refl s := by simp [Flow]
  trans := by
    rintro s t u ⟨⟨a1, a2, a3, a4⟩, ⟨b1, b2, b3, b4, b5, b6, b7, b8, b9, b10⟩, c, d, e, f⟩
      ⟨⟨a1', a2', a3', a4'⟩, ⟨b1', b2', b3', b4', b5', b6', b7', b8', b9', b10'⟩, c', d', e', f'⟩
    refine ⟨⟨a1'.trans a1, a2'.trans a2, a3'.trans a3, a4'.trans a4⟩, ⟨b1'.trans b1, b2'.trans b2, b3'.trans b3, b4'.trans b4, b5'.trans b5,
      b6'.trans b6, b7'.trans b7, b8'.trans b8, b9'.trans b9, b10'.trans b10⟩, fun h => c' (c h), fun h => d' (d h),
      fun h => e' (e h), fun h => ?_⟩
    obtain ⟨f1, f2⟩ := f h
    obtain ⟨f1', f2'⟩ := f' f1
    refine ⟨f1', fun a ha hs => ?_⟩
    have hb : t.inOutput a = false := by simpa [State.inOutput, b6, b7] using ha
    have hc : t.inArena a = false := by simpa [State.inArena, b8, b9] using hs
    exact ⟨((f2' a hb hc).1).trans (f2 a ha hs).1, ((f2' a hb hc).2).trans (f2 a ha hs).2⟩

/-- What the decoders may do is within what any action may do. -/
theorem calm_flow {s t : State} (h : Calm s t) : Flow s t := by
  obtain ⟨⟨a1, a2, a3, a4, a5, a6, a7, a8, a9, a10, a11⟩, ⟨b1, b2, b3, b4, b5, b6⟩,
    ⟨c1, c2, c3, c4, c5, c6, c7⟩, d⟩ := h
  simp [Flow, a1, a2, a3, a4, a5, a11, c1]
  exact d

variable {α β : Type}

@[simp] theorem flow_pure (a : α) : Stays Flow (pure a : Act α) := stays_pure flow_chain a

@[simp] theorem flow_bind {m : Act α} {f : α → Act β} (hm : Stays Flow m) (hf : ∀ a, Stays Flow (f a)) :
    Stays Flow (m >>= f) := stays_bind flow_chain hm hf

@[simp] theorem flow_map (f : α → β) {m : Act α} (hm : Stays Flow m) : Stays Flow (f <$> m) := stays_map f hm

@[simp] theorem flow_get : Stays Flow (get : Act State) := stays_get flow_chain

@[simp] theorem flow_raise (e : ErrKind) : Stays Flow (raise e : Act α) := stays_raise flow_chain e

@[simp] theorem flow_stop (f : Fault) : Stays Flow (stop f : Act α) := stays_stop f

@[simp] theorem flow_undefinedRead (w : Unwritten) : Stays Flow (undefinedRead w : Act α) := stays_stop _

@[simp] theorem flow_require (b : Bool) : Stays Flow (require b) := stays_require flow_chain b

@[simp] theorem flow_orFormatError (o : Option α) : Stays Flow (orFormatError o) := stays_orFormatError flow_chain o

@[simp] theorem flow_orUndefined (w : Unwritten) (o : Option α) : Stays Flow (orUndefined w o) :=
  stays_orUndefined flow_chain w o

@[simp] theorem flow_ite {c : Prop} [Decidable c] {m n : Act α} (hm : Stays Flow m) (hn : Stays Flow n) :
    Stays Flow (if c then m else n) := stays_ite hm hn

theorem flow_update {f : State → State} (hf : ∀ s, Flow s (f s)) : Stays Flow (update f) := stays_update hf

theorem flow_of_calm {m : Act α} (h : Stays Calm m) : Stays Flow m := h.mono calm_flow

/-! ### Shared operations -/

@[simp] theorem flow_loadByte (a : Nat) : Stays Flow (loadByte a) := flow_of_calm (calm_loadByte a)

@[simp] theorem flow_memRead1 (off : Nat) : Stays Flow (memRead1 off) := flow_of_calm (calm_memRead1 off)

@[simp] theorem flow_memRead2 (off : Nat) : Stays Flow (memRead2 off) := flow_of_calm (calm_memRead2 off)

@[simp] theorem flow_memReadList : ∀ n off, Stays Flow (memReadList n off)
  | 0, _ => by simp [memReadList]
  | n + 1, off => by simp [memReadList, flow_memReadList n]

@[simp] theorem flow_checked32 (v : Int) : Stays Flow (checked32 v) := flow_of_calm (calm_checked32 v)

@[simp] theorem flow_memWrite1 (off : Nat) (v : Byte) : Stays Flow (memWrite1 off v) := by
  unfold memWrite1
  refine stays_get_bind fun s => ?_
  by_cases h : off + 1 > s.outLen
  · rw [if_pos h]; exact flow_raise _ s
  · rw [if_neg h]
    refine ⟨fun _ t ht => ?_, fun e t ht => ?_⟩
    · rw [act_update] at ht
      cases ht
      refine ⟨⟨rfl, rfl, rfl, rfl⟩, ⟨rfl, rfl, rfl, rfl, rfl, rfl, rfl, rfl, rfl, rfl⟩, id, id, id, fun hw => ?_⟩
      refine ⟨Memory.storeList_wf _ _ hw _, fun a ha _ => Memory.storeList_outside _ _ hw _ _ ?_⟩
      simp only [State.inOutput, State.outAddr, State.outLen, Bool.and_eq_false_iff, decide_eq_false_iff_not] at ha h ⊢
      simp only [List.length_singleton]
      omega
    · rw [act_update] at ht; cases ht

/-- The engine's use of the arena, as host memory sees it. -/
theorem flow_spill (s : State) : Flow s s.spill := by
  refine ⟨⟨rfl, rfl, rfl, rfl⟩, ⟨rfl, rfl, rfl, rfl, rfl, rfl, rfl, rfl, rfl, rfl⟩, id, id, id, fun hw => ?_⟩
  by_cases h : s.arena.used = 0
  · rw [show s.spill.mem = s.mem from if_pos h]
    exact ⟨hw, fun _ _ _ => ⟨rfl, rfl⟩⟩
  · rw [show s.spill.mem = s.mem.forget s.regs.scrBase.toNat s.regs.scrLen.toNat from if_neg h]
    refine ⟨Memory.forget_wf hw _ _, fun a _ ha => Memory.forget_outside hw ?_⟩
    simp only [State.inArena, Bool.and_eq_false_iff, decide_eq_false_iff_not] at ha
    omega

/-- A draw of the arena. -/
theorem flow_drawArena (s : State) : Flow s s.drawArena := by simp [Flow, State.drawArena]

/-- The state as an engine step finds it. -/
theorem flow_refresh (s : State) : Flow s s.refresh := by
  unfold State.refresh
  split
  · exact flow_drawArena s
  · exact flow_chain.refl s

@[simp] theorem flow_alloc (k : Config.AllocKind) : Stays Flow (alloc k) := by
  unfold alloc
  refine flow_bind flow_get fun s => flow_ite (flow_raise _) (flow_ite (flow_raise _) (flow_ite (flow_raise _) ?_))
  exact flow_bind (flow_update fun _ => by simp [Flow]) fun _ => flow_pure _

@[simp] theorem flow_release (n : Nat) : Stays Flow (release n) := flow_update fun _ => by simp [Flow]

@[simp] theorem flow_getBp : Stays Flow getBp := by simp [getBp]

@[simp] theorem flow_setBp (n : Nat) : Stays Flow (setBp n) := flow_update fun _ => by simp [Flow]

@[simp] theorem flow_readLength : Stays Flow readLength := by simp (maxDischargeDepth := 60) [readLength]

@[simp] theorem flow_skipSegment (lx : Nat) : Stays Flow (skipSegment lx) := by simp [skipSegment]

@[simp] theorem flow_readFrameComps : ∀ n p, Stays Flow (readFrameComps n p)
  | 0, _ => by simp [readFrameComps]
  | n + 1, p => by simp (maxDischargeDepth := 60) [readFrameComps, flow_readFrameComps n]

@[simp] theorem flow_readNf (lx : Nat) : Stays Flow (readNf lx) := by simp (maxDischargeDepth := 60) [readNf]

@[simp] theorem flow_readFrameHeader (lx : Nat) : Stays Flow (readFrameHeader lx) := by
  simp (maxDischargeDepth := 60) [readFrameHeader]

@[simp] theorem flow_readScanComps : ∀ n p, Stays Flow (readScanComps n p)
  | 0, _ => by simp [readScanComps]
  | n + 1, p => by simp (maxDischargeDepth := 60) [readScanComps, flow_readScanComps n]

@[simp] theorem flow_readNs (lx : Nat) : Stays Flow (readNs lx) := by simp (maxDischargeDepth := 60) [readNs]

@[simp] theorem flow_readScanHeader (lx : Nat) : Stays Flow (readScanHeader lx) := by
  simp (maxDischargeDepth := 60) [readScanHeader]

@[simp] theorem flow_payloadStarts (lx : Nat) (ident : List Byte) : Stays Flow (payloadStarts lx ident) := by
  simp (maxDischargeDepth := 60) [payloadStarts]

@[simp] theorem flow_readQEntries (w : Nat) : ∀ n p, Stays Flow (readQEntries w n p)
  | 0, _ => by simp [readQEntries]
  | n + 1, p => by simp (maxDischargeDepth := 60) [readQEntries, flow_readQEntries w n]

theorem flow_forComps {f : Nat → Act Unit} (hf : ∀ c, Stays Flow (f c)) : ∀ l, Stays Flow (forComps f l)
  | [] => by simp [forComps]
  | c :: cs => flow_bind (hf c) fun _ => flow_forComps hf cs

/-! ### The layout scan -/

@[simp] theorem flow_setLayout (l : Layout) : Stays Flow (setLayout l) := flow_update fun _ => by simp [Flow]

theorem flow_setPhase {p : Phase} (hp : p ≠ .idle) : Stays Flow (setPhase p) := flow_update fun _ => by simp [Flow, hp]

@[simp] theorem flow_appendRecord (f : Layout → Layout) : Stays Flow (appendRecord f) := by
  simp (maxDischargeDepth := 60) [appendRecord]

@[simp] theorem flow_skipFill : ∀ fuel j, Stays Flow (skipFill fuel j)
  | 0, _ => by simp [skipFill]
  | fuel + 1, j => by simp (maxDischargeDepth := 60) [skipFill, flow_skipFill fuel]

@[simp] theorem flow_readMarker : Stays Flow readMarker := by
  unfold readMarker
  refine flow_bind flow_getBp fun bp => flow_bind flow_get fun s => flow_bind (flow_require _) fun _ =>
    flow_bind (flow_memRead1 _) fun b => flow_bind (flow_require _) fun _ => flow_bind (flow_skipFill _ _) fun j =>
    flow_bind (flow_memRead1 _) fun m => flow_bind (flow_require _) fun _ => flow_bind ?_ fun _ => flow_pure _
  exact flow_update fun _ => by simp [Flow]

@[simp] theorem flow_entropyWalk : ∀ fuel bp, Stays Flow (entropyWalk fuel bp)
  | 0, _ => by simp [entropyWalk]
  | fuel + 1, bp => by simp (maxDischargeDepth := 60) [entropyWalk, flow_entropyWalk fuel]

@[simp] theorem flow_appendInterval : Stays Flow appendInterval := by simp [appendInterval]

@[simp] theorem flow_walkInterval : Stays Flow walkInterval := by
  unfold walkInterval
  refine flow_bind flow_getBp fun bp => flow_bind flow_get fun s => flow_bind (flow_entropyWalk _ _) fun b =>
    flow_bind ?_ fun _ => flow_pure _
  exact flow_update fun _ => by simp [Flow]

@[simp] theorem flow_endEntropy : Stays Flow endEntropy := by
  unfold endEntropy
  exact flow_bind flow_appendInterval fun _ => flow_update fun _ => by simp [Flow]

@[simp] theorem flow_scanSoi : Stays Flow scanSoi := by
  unfold scanSoi
  exact flow_bind flow_get fun s => flow_bind (flow_require _) fun _ => flow_bind (flow_setBp _) fun _ =>
    flow_setPhase (by decide)

@[simp] theorem flow_scanIllegal : Stays Flow scanIllegal := flow_raise _

@[simp] theorem flow_scanRst (m : BitVec 3) : Stays Flow (scanRst m) := by
  unfold scanRst
  refine flow_bind flow_get fun s => flow_bind (flow_require _) fun _ => flow_bind flow_appendInterval fun _ =>
    flow_bind (flow_require _) fun _ => ?_
  exact flow_update fun _ => by simp [Flow]

@[simp] theorem flow_scanSof (n : BitVec 4) : Stays Flow (scanSof n) := by simp (maxDischargeDepth := 60) [scanSof]

@[simp] theorem flow_scanSos : Stays Flow scanSos := by
  unfold scanSos
  refine flow_bind flow_get fun s => flow_bind (flow_require _) fun _ => flow_bind flow_readLength fun lx =>
    flow_bind (flow_readNs _) fun _ => flow_bind (flow_appendRecord _) fun _ => flow_bind (flow_skipSegment _) fun _ => ?_
  exact flow_update fun _ => by simp [Flow]

@[simp] theorem flow_dnlPlace (lx : Nat) : Stays Flow (dnlPlace lx) := by simp (maxDischargeDepth := 60) [dnlPlace]

@[simp] theorem flow_scanAux (k : AuxKind) : Stays Flow (scanAux k) := by simp (maxDischargeDepth := 60) [scanAux]

theorem infoMark_ok {info : Word} {bit : Nat} (hb : bit < 4) (h : info &&& 0xFFE0F800 = 0) :
    infoMark info bit &&& 0xFFE0F800 = 0 := by
  unfold infoMark
  rw [BitVec.and_or_distrib_right, h]
  rcases bit with _ | _ | _ | _ | b
  · rfl
  · rfl
  · rfl
  · rfl
  · omega

@[simp] theorem flow_scanDhp : Stays Flow scanDhp := by
  unfold scanDhp
  refine flow_bind flow_get fun s => flow_bind (flow_require _) fun _ => flow_bind flow_readLength fun lx =>
    flow_bind (flow_readFrameHeader _) fun h => flow_bind ?_ fun _ => flow_skipSegment _
  refine flow_update fun _ => ?_
  simp [Flow, HostRegs.ok]
  intro h1 h2 h3 h4 h5 h6
  exact ⟨h1, h2, h3, h4, h5, infoMark_ok (by decide) h6⟩

@[simp] theorem flow_scanEoi : Stays Flow scanEoi := by
  unfold scanEoi
  refine flow_bind flow_get fun s => flow_bind (flow_require _) fun _ => flow_bind (flow_require _) fun _ => ?_
  exact flow_update fun _ => by simp [Flow]

@[simp] theorem flow_scanSkip : Stays Flow scanSkip := by simp [scanSkip]

@[simp] theorem flow_appMatches (lx : Nat) (ident : List Byte) (slot : Layout → Option Nat) :
    Stays Flow (appMatches lx ident slot) := by simp (maxDischargeDepth := 60) [appMatches]

@[simp] theorem flow_scanApp0 : Stays Flow scanApp0 := by
  unfold scanApp0
  refine flow_bind flow_readLength fun lx => flow_bind (flow_appMatches _ _ _) fun b => ?_
  dsimp only
  refine flow_ite (flow_bind ?_ fun _ => flow_skipSegment _) (flow_skipSegment _)
  refine flow_update fun _ => ?_
  simp [Flow, HostRegs.ok]
  intro h1 h2 h3 h4 h5 h6
  exact ⟨h1, h2, h3, h4, h5, infoMark_ok (by decide) h6⟩

@[simp] theorem flow_scanApp1 : Stays Flow scanApp1 := by
  unfold scanApp1
  refine flow_bind flow_readLength fun lx => flow_bind (flow_appMatches _ _ _) fun b => ?_
  dsimp only
  refine flow_ite (flow_bind ?_ fun _ => flow_skipSegment _) (flow_skipSegment _)
  refine flow_update fun _ => ?_
  simp [Flow, HostRegs.ok]
  intro h1 h2 h3 h4 h5 h6
  exact ⟨h1, h2, h3, h4, h5, infoMark_ok (by decide) h6⟩

@[simp] theorem flow_readAdobeT (lx : Nat) : Stays Flow (readAdobeT lx) := by
  simp (maxDischargeDepth := 60) [readAdobeT]

@[simp] theorem flow_scanApp14 : Stays Flow scanApp14 := by
  unfold scanApp14
  refine flow_bind flow_readLength fun lx => flow_bind (flow_appMatches _ _ _) fun b =>
    ?_
  dsimp only
  refine flow_ite (flow_bind (flow_readAdobeT _) fun t => flow_bind ?_ fun _ => flow_skipSegment _) (flow_skipSegment _)
  refine flow_update fun _ => ?_
  simp [Flow, HostRegs.ok]
  intro h1 h2 h3 h4 h5 h6
  exact ⟨h1, h2, h3, h4, h5, infoMark_ok (by decide) h6⟩

/-! ### The table builder -/

@[simp] theorem flow_installTable (cls i : Nat) (counts : List Nat) (vals : List Byte) :
    Stays Flow (installTable cls i counts vals) := by
  unfold installTable
  refine flow_bind (flow_orFormatError _) fun codes => flow_bind (flow_alloc _) fun size => flow_bind flow_get fun s =>
    flow_bind (flow_release _) fun _ => ?_
  exact flow_update fun _ => by simp [Flow]

@[simp] theorem flow_dhtTables : ∀ fuel p e, Stays Flow (dhtTables fuel p e)
  | 0, _, _ => by simp [dhtTables]
  | fuel + 1, p, e => by simp (maxDischargeDepth := 60) [dhtTables, flow_dhtTables fuel]

@[simp] theorem flow_replayDht : Stays Flow replayDht := by simp (maxDischargeDepth := 60) [replayDht]

@[simp] theorem flow_dqtTables : ∀ fuel p e, Stays Flow (dqtTables fuel p e)
  | 0, _, _ => by simp [dqtTables]
  | fuel + 1, p, e => by
    unfold dqtTables
    refine flow_ite (flow_bind (flow_memRead1 _) fun t => flow_bind (flow_require _) fun _ => flow_bind (flow_require _) fun _ =>
      flow_bind (flow_readQEntries _ _ _) fun entries => flow_bind ?_ fun _ => flow_dqtTables fuel _ _) (flow_require _)
    exact flow_update fun _ => by simp [Flow]

@[simp] theorem flow_replayDqt : Stays Flow replayDqt := by simp (maxDischargeDepth := 60) [replayDqt]

@[simp] theorem flow_setConditioning (t cs : Byte) : Stays Flow (setConditioning t cs) := by
  unfold setConditioning
  refine flow_bind (flow_require _) fun _ => flow_ite (flow_bind (flow_require _) fun _ => ?_)
    (flow_bind (flow_require _) fun _ => ?_) <;> exact flow_update fun _ => by simp [Flow]

@[simp] theorem flow_dacPairs : ∀ n p, Stays Flow (dacPairs n p)
  | 0, _ => by simp [dacPairs]
  | n + 1, p => by simp (maxDischargeDepth := 60) [dacPairs, flow_dacPairs n]

@[simp] theorem flow_replayDac : Stays Flow replayDac := by simp (maxDischargeDepth := 60) [replayDac]

@[simp] theorem flow_replayDri : Stays Flow replayDri := by
  unfold replayDri
  refine flow_bind flow_readLength fun lx => flow_bind flow_getBp fun bp => flow_bind (flow_require _) fun _ =>
    flow_bind (flow_memRead2 _) fun ri => flow_bind ?_ fun _ => flow_skipSegment _
  exact flow_update fun _ => by simp [Flow]

@[simp] theorem flow_replayDnl : Stays Flow replayDnl := by simp (maxDischargeDepth := 60) [replayDnl]

@[simp] theorem flow_replayExp : Stays Flow replayExp := by
  unfold replayExp
  refine flow_bind flow_get fun s => flow_bind flow_readLength fun lx => flow_bind flow_getBp fun bp =>
    flow_bind (flow_require _) fun _ => flow_bind (flow_memRead1 _) fun e => flow_bind (flow_require _) fun _ =>
    flow_bind ?_ fun _ => flow_skipSegment _
  exact flow_update fun _ => by simp [Flow]

@[simp] theorem flow_resolveLines (y : Nat) : Stays Flow (resolveLines y) := by
  simp (maxDischargeDepth := 60) [resolveLines]

@[simp] theorem flow_selectTransfer : Stays Flow selectTransfer := by
  unfold selectTransfer
  refine flow_bind flow_get fun s => flow_ite (flow_bind (flow_orFormatError _) fun k => ?_) (flow_pure _)
  exact flow_update fun _ => by simp [Flow]

@[simp] theorem flow_allocPlanes (n : BitVec 4) (h : FrameHeader) (y : Nat) : Stays Flow (allocPlanes n h y) := by
  unfold allocPlanes
  exact flow_bind flow_get fun s => flow_ite (flow_raise _) (flow_bind (flow_alloc _) fun _ => flow_pure _)

theorem infoFrame_ok (info : Word) (n : BitVec 4) (nf : BitVec 3) (p : BitVec 5) :
    infoFrame info n nf p &&& 0xFFE0F800 = 0 := by
  have h1 : ∀ n : BitVec 4, (n.setWidth 32 <<< 4 : Word) &&& 0xFFE0F800 = 0 := by decide
  have h2 : ∀ n : BitVec 3, (n.setWidth 32 <<< 8 : Word) &&& 0xFFE0F800 = 0 := by decide
  have h3 : ∀ n : BitVec 5, (n.setWidth 32 <<< 16 : Word) &&& 0xFFE0F800 = 0 := by decide
  have h0 : (info &&& 0xF#32) &&& 0xFFE0F800 = 0 := by
    rw [BitVec.and_assoc]
    exact BitVec.and_zero
  unfold infoFrame
  rw [BitVec.and_or_distrib_right, BitVec.and_or_distrib_right, BitVec.and_or_distrib_right, h1, h2, h3, h0]
  rfl

theorem flow_openFrame (s : State) (n : BitVec 4) (h : FrameHeader) (y : Nat) : Flow s (s.openFrame n h y) := by
  simp [Flow, State.openFrame, HostRegs.ok]
  intro h1 h2 h3 h4 h5 h6
  refine ⟨h1, h2, h3, ?_, ?_, infoFrame_ok _ _ _ _⟩
  · split
    · exact h4
    · exact Nat.mod_lt _ (by omega)
  · split
    · exact h5
    · exact Nat.mod_lt _ (by omega)

@[simp] theorem flow_parseSof (n : BitVec 4) : Stays Flow (parseSof n) := by
  unfold parseSof
  refine flow_bind flow_readLength fun lx => flow_bind (flow_readFrameHeader _) fun h => flow_bind (flow_require _) fun _ =>
    flow_bind (flow_require _) fun _ => flow_bind (flow_require _) fun _ => flow_bind flow_get fun s =>
    flow_bind (flow_require _) fun _ => flow_bind (flow_require _) fun _ => flow_bind (flow_resolveLines _) fun y =>
    flow_bind (flow_allocPlanes _ _ _) fun _ => flow_bind (flow_update fun s => flow_openFrame s n h y) fun _ =>
    flow_bind flow_get fun s => ?_
  have h0 : Stays Flow (do
      selectTransfer
      skipSegment lx
      update fun s => { s with sq := { s.sq with phase := .replaySos, scanIx := 0 } }) :=
    flow_bind flow_selectTransfer fun _ => flow_bind (flow_skipSegment _) fun _ => flow_update fun _ => by simp [Flow]
  dsimp only
  split
  · exact flow_bind (flow_require _) fun _ => h0
  · exact h0

@[simp] theorem flow_parseScanHeader : Stays Flow parseScanHeader := by
  unfold parseScanHeader
  refine flow_bind flow_readLength fun lx => flow_bind (flow_readScanHeader _) fun h => flow_bind (flow_require _) fun _ =>
    flow_bind flow_get fun s => flow_bind (flow_orFormatError _) fun cs => flow_bind (flow_require _) fun _ =>
    flow_bind ?_ fun _ => flow_skipSegment _
  exact flow_update fun _ => by simp [Flow]

@[simp] theorem flow_installReference : Stays Flow installReference := by
  unfold installReference
  refine flow_bind flow_get fun s => flow_ite (flow_pure _) (flow_bind (flow_installTable _ _ _ _) fun _ =>
    flow_bind (flow_installTable _ _ _ _) fun _ => flow_bind (flow_installTable _ _ _ _) fun _ =>
    flow_bind (flow_installTable _ _ _ _) fun _ => ?_)
  exact flow_update fun _ => by simp [Flow]

@[simp] theorem flow_claimComp (c : Nat) : Stays Flow (claimComp c) := by
  unfold claimComp
  refine flow_bind flow_get fun s => flow_bind (flow_require _) fun _ => flow_bind (flow_require _) fun _ => ?_
  dsimp only
  refine flow_ite (flow_bind (flow_orFormatError _) fun q => flow_bind ?_ fun _ => ?_) ?_ <;>
    exact flow_update fun _ => by simp [Flow]

@[simp] theorem flow_coverComp (c : Nat) : Stays Flow (coverComp c) := by
  unfold coverComp
  refine flow_bind flow_get fun s => flow_ite (flow_require _) (flow_bind (flow_require _) fun _ => ?_)
  exact flow_update fun _ => by simp [Flow]

@[simp] theorem flow_parseSos : Stays Flow parseSos := by
  unfold parseSos
  refine flow_bind flow_parseScanHeader fun _ => flow_bind flow_get fun s => flow_bind (flow_require _) fun _ =>
    flow_bind (flow_forComps flow_coverComp _) fun _ => flow_bind flow_installReference fun _ =>
    flow_bind (flow_forComps flow_claimComp _) fun _ => flow_bind flow_get fun s => flow_bind (flow_require _) fun _ =>
    flow_bind ?_ fun _ => flow_bind flow_get fun s => flow_bind (flow_orUndefined _ _) fun _ => flow_require _
  exact flow_update fun _ => by simp [Flow, State.openScan]

@[simp] theorem flow_byPhase {m n : Act Unit} (hm : Stays Flow m) (hn : Stays Flow n) : Stays Flow (byPhase m n) :=
  flow_bind flow_get fun _ => flow_ite hn hm

@[simp] theorem flow_sofAct (n : BitVec 4) : Stays Flow (sofAct n) := flow_byPhase (flow_scanSof n) (flow_parseSof n)

/-! ### The driver, reconstruction and accumulation -/

@[simp] theorem flow_intervalEntry : Stays Flow intervalEntry := by
  unfold intervalEntry
  refine flow_bind flow_get fun s => flow_bind (flow_orUndefined _ _) fun sr => flow_bind (flow_orUndefined _ _) fun iv => ?_
  exact flow_update fun _ => by simp [Flow, State.enterInterval]

@[simp] theorem flow_exitCheck : Stays Flow exitCheck := by
  unfold exitCheck
  refine flow_bind flow_get fun s => flow_ite ?_ (flow_require _)
  split
  · exact flow_pure _
  · exact flow_require _

@[simp] theorem flow_scanEnd : Stays Flow scanEnd := by
  unfold scanEnd
  refine flow_bind flow_get fun s => flow_bind (flow_orUndefined _ _) fun f => flow_ite ?_ ?_ <;>
    exact flow_update fun _ => by simp [Flow]

@[simp] theorem flow_advance : Stays Flow advance := by
  unfold advance
  refine flow_bind flow_get fun s => flow_ite ?_ (flow_ite ?_ (flow_bind flow_exitCheck fun _ => flow_ite ?_ flow_scanEnd)) <;>
    exact flow_update fun _ => by simp [Flow]

@[simp] theorem flow_dequantList : ∀ l, Stays Flow (dequantList l)
  | [] => by simp [dequantList]
  | (v, q) :: t => by simp (maxDischargeDepth := 60) [dequantList, flow_dequantList t]

@[simp] theorem flow_dequant (b : Block) (q : QTable) : Stays Flow (dequant b q) := by simp [dequant]

@[simp] theorem flow_transformBlocks (p : Nat) (d : Bool) (q : QTable) : ∀ l, Stays Flow (transformBlocks p d q l)
  | [] => by simp [transformBlocks]
  | b :: t => by simp (maxDischargeDepth := 60) [transformBlocks, flow_transformBlocks p d q t]

@[simp] theorem flow_reconstructComp (c : Nat) : Stays Flow (reconstructComp c) := by
  unfold reconstructComp
  refine flow_bind flow_get fun s => flow_bind (flow_orUndefined _ _) fun plane => flow_bind (flow_alloc _) fun _ => ?_
  have h0 : ∀ rs, Stays Flow (update fun s => { s with arena := { s.arena with rs := vset s.arena.rs c (some rs) } }) :=
    fun rs => flow_update fun _ => by simp [Flow]
  dsimp only
  cases plane with
  | dct bw bh blocks =>
    exact flow_bind (flow_orUndefined _ _) fun q => flow_bind (flow_transformBlocks _ _ _ _) fun out =>
      flow_bind (flow_pure _) fun rs => h0 rs
  | lossless sw sh cells => exact flow_bind (flow_pure _) fun rs => h0 rs

@[simp] theorem flow_allocGrown (b : Bool) (w h : Nat) : Stays Flow (allocGrown b w h) :=
  flow_ite (flow_bind (flow_alloc _) fun _ => flow_pure _) (flow_pure _)

@[simp] theorem flow_accumulateDiff (id : Byte) (res : Samples) : Stays Flow (accumulateDiff id res) := by
  unfold accumulateDiff
  refine flow_bind flow_get fun s => flow_bind (flow_orUndefined _ _) fun old => flow_bind (flow_require _) fun _ => ?_
  dsimp only
  split
  · refine flow_bind (flow_require _) fun _ => flow_bind (flow_allocGrown _ _ _) fun _ => ?_
    exact flow_update fun _ => by simp [Flow]
  · refine flow_bind (flow_allocGrown _ _ _) fun _ => ?_
    exact flow_update fun _ => by simp [Flow]

@[simp] theorem flow_accumulateComp (c : Nat) : Stays Flow (accumulateComp c) := by
  unfold accumulateComp
  refine flow_bind flow_get fun s => flow_bind (flow_orUndefined _ _) fun rs => flow_ite (flow_accumulateDiff _ _)
    (flow_bind (flow_alloc _) fun _ => ?_)
  exact flow_update fun _ => by simp [Flow]

@[simp] theorem flow_frameEndAct : Stays Flow frameEndAct := by
  unfold frameEndAct
  refine flow_bind flow_get fun s => flow_bind (flow_require _) fun _ =>
    flow_bind (flow_forComps flow_reconstructComp _) fun _ => ?_
  have h0 : Stays Flow (update fun s => { s with sq := { s.sq with
      frameIx := s.sq.frameIx + 1, scanIx := 0
      phase := if s.sq.frameIx + 1 < s.arena.layout.frames.length then .replaySof else .output } }) := by
    refine flow_update fun _ => ?_
    simp [Flow]
    intro _
    split <;> simp
  dsimp only
  exact flow_ite (flow_bind (flow_forComps flow_accumulateComp _) fun _ => h0) h0

/-! ### Fetching -/

@[simp] theorem flow_visit (off : Nat) : Stays Flow (visit off) := flow_update fun _ => by simp [Flow]

@[simp] theorem flow_fetchSoi : Stays Flow fetchSoi := by simp (maxDischargeDepth := 60) [fetchSoi]

@[simp] theorem flow_fetchMarker : Stays Flow fetchMarker := by simp (maxDischargeDepth := 60) [fetchMarker]

@[simp] theorem flow_fetchEntropy : Stays Flow fetchEntropy := by
  unfold fetchEntropy
  refine flow_bind flow_walkInterval fun q => ?_
  split <;> exact flow_pure _

@[simp] theorem flow_fetchReplay (limit : Nat) (last : Instr) : Stays Flow (fetchReplay limit last) := by
  unfold fetchReplay
  refine flow_bind flow_get fun s => ?_
  split
  · refine flow_ite (flow_bind (flow_visit _) fun _ => flow_bind ?_ fun _ => flow_pure _)
      (flow_bind (flow_visit _) fun _ => flow_pure _)
    exact flow_update fun _ => by simp [Flow]
  · exact flow_bind (flow_visit _) fun _ => flow_pure _

@[simp] theorem flow_fetchFrame : Stays Flow fetchFrame := by simp (maxDischargeDepth := 60) [fetchFrame]

@[simp] theorem flow_fetchScan : Stays Flow fetchScan := by simp (maxDischargeDepth := 60) [fetchScan]

@[simp] theorem flow_fetchUnit : Stays Flow fetchUnit := by
  unfold fetchUnit
  refine flow_bind flow_get fun s => flow_ite ?_ ?_
  · exact flow_bind (flow_of_calm calm_fetchSymbol) fun _ => flow_pure _
  · exact flow_bind (flow_orUndefined _ _) fun _ => flow_pure _

@[simp] theorem flow_fetch : Stays Flow fetch := by
  unfold fetch
  refine flow_bind flow_get fun s => ?_
  cases s.sq.phase <;> simp

end Sys2Proof.Machine
end

