-- ==== Sys2Proof/Laws/Ops.lean ====
section
/-! SUPPORT. One spec lemma per shared operation: what a read of the input, a segment's length field, an allocation and an appended
layout record answer (R101, R106, R131, R202). -/

namespace Sys2Proof.Machine

/-! ### What is readable -/

theorem State.readable.le {s : State} {off n off' n' : Nat} (h : s.readable off n) (h1 : off ≤ off')
    (h2 : off' + n' ≤ off + n) : s.readable off' n' := by
  refine ⟨by have := h.1; omega, fun k hk => ?_⟩
  have := h.2 (off' - off + k) (by omega)
  rwa [show off + (off' - off + k) = off' + k by omega] at this

/-- A byte of a readable range is specified and outside the arena. -/
theorem State.readable.byte {s : State} {off n k : Nat} (h : s.readable off n) (h1 : off ≤ k) (h2 : k < off + n) :
    s.mem.unknown (s.inAddr k) = false ∧ s.inArena (s.inAddr k) = false := by
  have := h.2 (k - off) (by omega)
  rwa [show off + (k - off) = k by omega] at this

/-- A read of specified content outside the arena changes nothing. -/
theorem engineLoad_known {s : State} {a : Nat} (h : s.mem.unknown a = false ∧ s.inArena a = false) :
    s.engineLoad a = (s.mem.read a, s) := by
  simp [State.engineLoad, State.load, h.1, h.2]

/-- MemRead(off, 1) of a specified byte of the input. -/
theorem memRead1_ok {s : State} {off : Nat} (h : s.readable off 1) : memRead1 off s = .ok (s.inByte off, s) := by
  have h1 := h.1
  have h2 := h.byte (le_refl off) (by omega)
  simp [memRead1, show off < s.inLen by omega, loadByte, engineLoad_known h2, State.inByte]

/-- MemRead(off, 1) at or beyond IN_LEN. -/
theorem memRead1_beyond {s : State} {off : Nat} (h : s.inLen < off + 1) :
    memRead1 off s = .error (.raise .formatError s) := by
  simp [memRead1, show ¬ off < s.inLen by omega]

/-- MemRead(off, 2) of specified bytes of the input. -/
theorem memRead2_ok {s : State} {off : Nat} (h : s.readable off 2) : memRead2 off s = .ok (s.inWord off, s) := by
  have h1 := h.1
  have h2 := h.byte (le_refl off) (by omega)
  have h3 := h.byte (k := off + 1) (by omega) (by omega)
  simp [memRead2, show ¬ s.inLen < off + 2 by omega, loadByte, engineLoad_known h2, engineLoad_known h3, State.inWord,
    State.inByte]

/-- A list of specified bytes of the input. -/
theorem memReadList_ok {s : State} : ∀ {n off : Nat}, s.readable off n → memReadList n off s = .ok (s.inBytes off n, s)
  | 0, _, _ => rfl
  | n + 1, off, h => by
    have h1 : s.readable off 1 := h.le (le_refl _) (by omega)
    have h2 : s.readable (off + 1) n := h.le (by omega) (by omega)
    simp only [memReadList, act_bind, memRead1_ok h1, memReadList_ok h2, act_pure]
    simp only [State.inBytes, List.range_succ_eq_map, List.map_cons, List.map_map, Function.comp_def, Nat.add_zero,
      Nat.succ_eq_add_one, Nat.add_right_comm off 1, Nat.add_assoc]

/-! ### Segments -/

theorem State.segmentAt.le {s : State} {lx : Nat} (h : s.segmentAt lx) : 2 ≤ lx := h.1

theorem State.segmentAt.bytes {s : State} {lx : Nat} (h : s.segmentAt lx) {off n : Nat} (h1 : s.rd.bp ≤ off)
    (h2 : off + n ≤ s.rd.bp + lx) : s.readable off n := h.2.1.le h1 h2

/-- The length field of a whole segment. -/
theorem readLength_ok {s : State} {lx : Nat} (h : s.segmentAt lx) : readLength s = .ok (lx, s) := by
  have h2 : s.readable s.rd.bp 2 := h.bytes (le_refl _) (by have := h.1; omega)
  have h3 := h.2.1.1
  simp [readLength, memRead2_ok h2, h.2.2, h.1, h3]

theorem skipSegment_ok (lx : Nat) (s : State) : skipSegment lx s = .ok ((), s.past lx) := by
  simp [skipSegment, State.past]

/-! ### The arena -/

/-- An allocation that succeeds. -/
theorem alloc_ok {s : State} {k : Config.AllocKind} (h : s.roomFor k) :
    alloc k s = .ok (allocSize s.params k, s.allocated k) := by
  obtain ⟨h1, h2, h3⟩ := h
  simp [alloc, show ¬ allocSize s.params k = 0 by omega, h2, show ¬ s.regs.scrLen.toNat < s.arena.used + allocSize s.params k by omega,
    State.allocated]

/-- A layout record appended. -/
theorem appendRecord_ok {s : State} (f : Layout → Layout) (h : s.roomFor .layoutRecord) :
    appendRecord f s = .ok ((), s.recorded f) := by
  simp [appendRecord, alloc_ok h, State.allocated, setLayout, State.recorded]

/-! ### Decoders read the stream only -/

/-- What reading bits and codewords changes: BP, BITBUF, BITCNT and the free-value counter. -/
def Reads (s t : State) : Prop := t = { s with rd := { t.rd with segEnd := s.rd.segEnd }, draws := t.draws }

theorem reads_chain : Chain Reads where
  refl _ := rfl
  trans := by
    intro s t u h1 h2
    unfold Reads at *
    rw [h2, h1]

theorem reads_memRead1 (off : Nat) : Stays Reads (memRead1 off) := by
  unfold memRead1
  refine stays_bind reads_chain (stays_get reads_chain) fun s => stays_ite (stays_raise reads_chain _) ?_
  refine fun s => ⟨fun b t h => ?_, fun e t h => ?_⟩
  · have h1 : Except.ok (s.engineLoad (State.inAddr _ off)) = (Except.ok (b, t) : Except Stop (Byte × State)) := h
    have h2 := Except.ok.inj h1
    unfold State.engineLoad State.load at h2
    split at h2
    · cases h2; rfl
    · split at h2 <;> cases h2 <;> rfl
  · have h1 : Except.ok (s.engineLoad (State.inAddr _ off)) = (Except.error (.raise e t) : Except Stop (Byte × State)) := h
    cases h1

theorem reads_nextBit : Stays Reads nextBit := by
  unfold nextBit
  refine stays_bind reads_chain (stays_get reads_chain) fun s => stays_ite (stays_ite (stays_raise reads_chain _) ?_) ?_
  · refine stays_bind reads_chain (reads_memRead1 _) fun b => stays_bind reads_chain ?_ fun _ => stays_pure reads_chain _
    exact stays_update fun _ => rfl
  · refine stays_bind reads_chain ?_ fun _ => stays_pure reads_chain _
    exact stays_update fun _ => rfl

theorem reads_walkTrie (codes : List Code) : ∀ fuel code len, Stays Reads (walkTrie codes fuel code len)
  | 0, _, _ => stays_raise reads_chain _
  | fuel + 1, code, len => by
    unfold walkTrie
    refine stays_bind reads_chain reads_nextBit fun b => ?_
    dsimp only
    split
    · exact stays_pure reads_chain _
    · exact reads_walkTrie codes fuel _ _

theorem reads_decodeHuff (t : Option HuffTable) : Stays Reads (decodeHuff t) :=
  stays_bind reads_chain (stays_orFormatError reads_chain _) fun _ => reads_walkTrie _ _ _ _

theorem reads_receiveFrom : ∀ n v, Stays Reads (receiveFrom n v)
  | 0, _ => stays_pure reads_chain _
  | n + 1, _ => stays_bind reads_chain reads_nextBit fun _ => reads_receiveFrom n _

theorem reads_receive (n : Nat) : Stays Reads (receive n) := reads_receiveFrom n 0

end Sys2Proof.Machine
end

