-- ==== Sys2Proof/Laws/PerInstr.lean ====
section
/-! SUPPORT. Facts of every instruction as syntax, one lemma per constructor: an encoding has the size of its space. -/

namespace Sys2Proof.Laws

/-- The bytes of an instruction of a space: a marker is two bytes, a CTRL write four, the others one (R130, R153, R158, R32). -/
def spaceSize : Space → Nat
  | .marker => 2
  | .ctrl => 4
  | .sel | .symDc | .symLossless | .symAc => 1

/-- The encoding of an instruction has the size of its space. -/
def Size.Statement (i : Instr) : Prop := (encode i).length = spaceSize i.space

theorem Size.tem : Size.Statement .tem := rfl
theorem Size.res02 (low : BitVec 1) : Size.Statement (.res02 low) := rfl
theorem Size.res04 (low : BitVec 2) : Size.Statement (.res04 low) := rfl
theorem Size.res08 (low : BitVec 3) : Size.Statement (.res08 low) := rfl
theorem Size.res10 (low : BitVec 4) : Size.Statement (.res10 low) := rfl
theorem Size.res20 (low : BitVec 5) : Size.Statement (.res20 low) := rfl
theorem Size.res40 (low : BitVec 6) : Size.Statement (.res40 low) := rfl
theorem Size.res80 (low : BitVec 6) : Size.Statement (.res80 low) := rfl
theorem Size.sof0 : Size.Statement .sof0 := rfl
theorem Size.sof1 : Size.Statement .sof1 := rfl
theorem Size.sof2 : Size.Statement .sof2 := rfl
theorem Size.sof3 : Size.Statement .sof3 := rfl
theorem Size.dht : Size.Statement .dht := rfl
theorem Size.sof5 : Size.Statement .sof5 := rfl
theorem Size.sof6 : Size.Statement .sof6 := rfl
theorem Size.sof7 : Size.Statement .sof7 := rfl
theorem Size.jpg : Size.Statement .jpg := rfl
theorem Size.sof9 : Size.Statement .sof9 := rfl
theorem Size.sof10 : Size.Statement .sof10 := rfl
theorem Size.sof11 : Size.Statement .sof11 := rfl
theorem Size.dac : Size.Statement .dac := rfl
theorem Size.sof13 : Size.Statement .sof13 := rfl
theorem Size.sof14 : Size.Statement .sof14 := rfl
theorem Size.sof15 : Size.Statement .sof15 := rfl
theorem Size.rst (m : BitVec 3) : Size.Statement (.rst m) := rfl
theorem Size.soi : Size.Statement .soi := rfl
theorem Size.eoi : Size.Statement .eoi := rfl
theorem Size.sos : Size.Statement .sos := rfl
theorem Size.dqt : Size.Statement .dqt := rfl
theorem Size.dnl : Size.Statement .dnl := rfl
theorem Size.dri : Size.Statement .dri := rfl
theorem Size.dhp : Size.Statement .dhp := rfl
theorem Size.exp : Size.Statement .exp := rfl
theorem Size.app0 : Size.Statement .app0 := rfl
theorem Size.app1 : Size.Statement .app1 := rfl
theorem Size.app2 (low : BitVec 1) : Size.Statement (.app2 low) := rfl
theorem Size.app4 (low : BitVec 2) : Size.Statement (.app4 low) := rfl
theorem Size.app8 (low : BitVec 2) : Size.Statement (.app8 low) := rfl
theorem Size.app12 (low : BitVec 1) : Size.Statement (.app12 low) := rfl
theorem Size.app14 : Size.Statement .app14 := rfl
theorem Size.app15 : Size.Statement .app15 := rfl
theorem Size.jpg0 (low : BitVec 3) : Size.Statement (.jpg0 low) := rfl
theorem Size.jpg8 (low : BitVec 2) : Size.Statement (.jpg8 low) := rfl
theorem Size.jpg12 (low : BitVec 1) : Size.Statement (.jpg12 low) := rfl
theorem Size.com : Size.Statement .com := rfl
theorem Size.hufSeq (d x : Bool) : Size.Statement (.hufSeq d x) := rfl
theorem Size.hufDcFirst (d : Bool) : Size.Statement (.hufDcFirst d) := rfl
theorem Size.hufDcRefine (d : Bool) : Size.Statement (.hufDcRefine d) := rfl
theorem Size.hufAcFirst (d : Bool) : Size.Statement (.hufAcFirst d) := rfl
theorem Size.hufAcRefine (d : Bool) : Size.Statement (.hufAcRefine d) := rfl
theorem Size.hufLossless (d : Bool) : Size.Statement (.hufLossless d) := rfl
theorem Size.ariSeq (d : Bool) : Size.Statement (.ariSeq d) := rfl
theorem Size.ariDcFirst (d : Bool) : Size.Statement (.ariDcFirst d) := rfl
theorem Size.ariDcRefine (d : Bool) : Size.Statement (.ariDcRefine d) := rfl
theorem Size.ariAcFirst (d : Bool) : Size.Statement (.ariAcFirst d) := rfl
theorem Size.ariAcRefine (d : Bool) : Size.Statement (.ariAcRefine d) := rfl
theorem Size.ariLossless (d : Bool) : Size.Statement (.ariLossless d) := rfl
theorem Size.dcCategory (t : BitVec 4) : Size.Statement (.dcCategory t) := rfl
theorem Size.losslessDiff (t : BitVec 4) : Size.Statement (.losslessDiff t) := rfl
theorem Size.eob : Size.Statement .eob := rfl
theorem Size.zrl : Size.Statement .zrl := rfl
theorem Size.eobn (r : BitVec 4) : Size.Statement (.eobn r) := rfl
theorem Size.acCoeff (r s : BitVec 4) : Size.Statement (.acCoeff r s) := rfl
theorem Size.decode (irq : Bool) : Size.Statement (.decode irq) := rfl
theorem Size.encode (irq : Bool) : Size.Statement (.encode irq) := rfl

end Sys2Proof.Laws
end

