-- ==== Sys2Proof/Laws/State.lean ====
section
/-! SUPPORT. What each field of State is after a named update. -/

namespace Sys2Proof.Machine

variable (s : State)

/-! Engine state discarded (R587). -/

@[simp] theorem State.discard_regs : s.discard.regs = s.regs := rfl
@[simp] theorem State.discard_rd : s.discard.rd = Reader.init := rfl
@[simp] theorem State.discard_qm : s.discard.qm = Coder.init := rfl
@[simp] theorem State.discard_st : s.discard.st = Stats.init := rfl
@[simp] theorem State.discard_fr : s.discard.fr = Frame.init := rfl
@[simp] theorem State.discard_sc : s.discard.sc = Scan.init := rfl
@[simp] theorem State.discard_pr : s.discard.pr = Pred.init := rfl
@[simp] theorem State.discard_tb : s.discard.tb = Tables.init := rfl
@[simp] theorem State.discard_sq : s.discard.sq = Seq.init := rfl
@[simp] theorem State.discard_hi : s.discard.hi = Hier.init := rfl
@[simp] theorem State.discard_arena : s.discard.arena = Arena.init := rfl
@[simp] theorem State.discard_enc : s.discard.enc = Enc.init := rfl
@[simp] theorem State.discard_mem : s.discard.mem = s.mem := rfl
@[simp] theorem State.discard_breach : s.discard.breach = Breach.init := rfl
@[simp] theorem State.discard_params : s.discard.params = s.params := rfl
@[simp] theorem State.discard_script : s.discard.script = s.script := rfl
@[simp] theorem State.discard_rdata : s.discard.rdata = s.rdata := rfl
@[simp] theorem State.discard_draws : s.discard.draws = s.draws := rfl
@[simp] theorem State.discard_overflow : s.discard.overflow = s.overflow := rfl

/-! The end of an operation (R587). -/

@[simp] theorem State.finish_regs (failed : Bool) : (s.finish failed).regs = { s.regs with status := statusWord false true failed } := rfl
@[simp] theorem State.finish_rd (failed : Bool) : (s.finish failed).rd = Reader.init := rfl
@[simp] theorem State.finish_qm (failed : Bool) : (s.finish failed).qm = Coder.init := rfl
@[simp] theorem State.finish_st (failed : Bool) : (s.finish failed).st = Stats.init := rfl
@[simp] theorem State.finish_fr (failed : Bool) : (s.finish failed).fr = Frame.init := rfl
@[simp] theorem State.finish_sc (failed : Bool) : (s.finish failed).sc = Scan.init := rfl
@[simp] theorem State.finish_pr (failed : Bool) : (s.finish failed).pr = Pred.init := rfl
@[simp] theorem State.finish_tb (failed : Bool) : (s.finish failed).tb = Tables.init := rfl
@[simp] theorem State.finish_sq (failed : Bool) : (s.finish failed).sq = Seq.init := rfl
@[simp] theorem State.finish_hi (failed : Bool) : (s.finish failed).hi = Hier.init := rfl
@[simp] theorem State.finish_arena (failed : Bool) : (s.finish failed).arena = Arena.init := rfl
@[simp] theorem State.finish_enc (failed : Bool) : (s.finish failed).enc = Enc.init := rfl
@[simp] theorem State.finish_mem (failed : Bool) : (s.finish failed).mem = s.mem := rfl
@[simp] theorem State.finish_breach (failed : Bool) : (s.finish failed).breach = Breach.init := rfl
@[simp] theorem State.finish_params (failed : Bool) : (s.finish failed).params = s.params := rfl
@[simp] theorem State.finish_script (failed : Bool) : (s.finish failed).script = s.script := rfl
@[simp] theorem State.finish_rdata (failed : Bool) : (s.finish failed).rdata = s.rdata := rfl
@[simp] theorem State.finish_draws (failed : Bool) : (s.finish failed).draws = s.draws := rfl
@[simp] theorem State.finish_overflow (failed : Bool) : (s.finish failed).overflow = s.overflow := rfl

/-! The failure entry (R545). -/

@[simp] theorem State.failEntry_regs (e : ErrKind) : (failEntry e s).regs = { failRegs e s.regs with status := statusWord false true true } := rfl
@[simp] theorem State.failEntry_rd (e : ErrKind) : (failEntry e s).rd = Reader.init := rfl
@[simp] theorem State.failEntry_qm (e : ErrKind) : (failEntry e s).qm = Coder.init := rfl
@[simp] theorem State.failEntry_st (e : ErrKind) : (failEntry e s).st = Stats.init := rfl
@[simp] theorem State.failEntry_fr (e : ErrKind) : (failEntry e s).fr = Frame.init := rfl
@[simp] theorem State.failEntry_sc (e : ErrKind) : (failEntry e s).sc = Scan.init := rfl
@[simp] theorem State.failEntry_pr (e : ErrKind) : (failEntry e s).pr = Pred.init := rfl
@[simp] theorem State.failEntry_tb (e : ErrKind) : (failEntry e s).tb = Tables.init := rfl
@[simp] theorem State.failEntry_sq (e : ErrKind) : (failEntry e s).sq = Seq.init := rfl
@[simp] theorem State.failEntry_hi (e : ErrKind) : (failEntry e s).hi = Hier.init := rfl
@[simp] theorem State.failEntry_arena (e : ErrKind) : (failEntry e s).arena = Arena.init := rfl
@[simp] theorem State.failEntry_enc (e : ErrKind) : (failEntry e s).enc = Enc.init := rfl
@[simp] theorem State.failEntry_mem (e : ErrKind) : (failEntry e s).mem = s.spill.mem.forget (s.outAddr 0) s.outLen := rfl
@[simp] theorem State.failEntry_breach (e : ErrKind) : (failEntry e s).breach = Breach.init := rfl
@[simp] theorem State.failEntry_params (e : ErrKind) : (failEntry e s).params = s.params := rfl
@[simp] theorem State.failEntry_script (e : ErrKind) : (failEntry e s).script = s.script := rfl
@[simp] theorem State.failEntry_rdata (e : ErrKind) : (failEntry e s).rdata = s.rdata := rfl
@[simp] theorem State.failEntry_draws (e : ErrKind) : (failEntry e s).draws = s.draws := rfl
@[simp] theorem State.failEntry_overflow (e : ErrKind) : (failEntry e s).overflow = s.overflow := rfl

/-! START accepted (R583). -/

@[simp] theorem State.accept_regs (op en : Bool) : (s.accept op en).regs = s.regs.start op en := rfl
@[simp] theorem State.accept_rd (op en : Bool) : (s.accept op en).rd = Reader.init := rfl
@[simp] theorem State.accept_qm (op en : Bool) : (s.accept op en).qm = Coder.init := rfl
@[simp] theorem State.accept_st (op en : Bool) : (s.accept op en).st = Stats.init := rfl
@[simp] theorem State.accept_fr (op en : Bool) : (s.accept op en).fr = Frame.init := rfl
@[simp] theorem State.accept_sc (op en : Bool) : (s.accept op en).sc = Scan.init := rfl
@[simp] theorem State.accept_pr (op en : Bool) : (s.accept op en).pr = Pred.init := rfl
@[simp] theorem State.accept_tb (op en : Bool) : (s.accept op en).tb = Tables.init := rfl
@[simp] theorem State.accept_sq (op en : Bool) : (s.accept op en).sq = { Seq.init with phase := if op then .encRead else .soi } := rfl
@[simp] theorem State.accept_hi (op en : Bool) : (s.accept op en).hi = Hier.init := rfl
@[simp] theorem State.accept_arena (op en : Bool) : (s.accept op en).arena = Arena.init := rfl
@[simp] theorem State.accept_enc (op en : Bool) : (s.accept op en).enc = Enc.init := rfl
@[simp] theorem State.accept_mem (op en : Bool) : (s.accept op en).mem = s.mem := rfl
@[simp] theorem State.accept_breach (op en : Bool) : (s.accept op en).breach = { Breach.init with arena := s.regs.arenaShared } := rfl
@[simp] theorem State.accept_params (op en : Bool) : (s.accept op en).params = s.params := rfl
@[simp] theorem State.accept_script (op en : Bool) : (s.accept op en).script = s.script := rfl
@[simp] theorem State.accept_rdata (op en : Bool) : (s.accept op en).rdata = s.rdata := rfl
@[simp] theorem State.accept_draws (op en : Bool) : (s.accept op en).draws = s.draws := rfl
@[simp] theorem State.accept_overflow (op en : Bool) : (s.accept op en).overflow = s.overflow := rfl

/-! A plane changed. -/

@[simp] theorem State.mapPlane_regs (c : Nat) (f : Plane → Plane) : (s.mapPlane c f).regs = s.regs := rfl
@[simp] theorem State.mapPlane_rd (c : Nat) (f : Plane → Plane) : (s.mapPlane c f).rd = s.rd := rfl
@[simp] theorem State.mapPlane_qm (c : Nat) (f : Plane → Plane) : (s.mapPlane c f).qm = s.qm := rfl
@[simp] theorem State.mapPlane_st (c : Nat) (f : Plane → Plane) : (s.mapPlane c f).st = s.st := rfl
@[simp] theorem State.mapPlane_fr (c : Nat) (f : Plane → Plane) : (s.mapPlane c f).fr = s.fr := rfl
@[simp] theorem State.mapPlane_sc (c : Nat) (f : Plane → Plane) : (s.mapPlane c f).sc = s.sc := rfl
@[simp] theorem State.mapPlane_pr (c : Nat) (f : Plane → Plane) : (s.mapPlane c f).pr = s.pr := rfl
@[simp] theorem State.mapPlane_tb (c : Nat) (f : Plane → Plane) : (s.mapPlane c f).tb = s.tb := rfl
@[simp] theorem State.mapPlane_sq (c : Nat) (f : Plane → Plane) : (s.mapPlane c f).sq = s.sq := rfl
@[simp] theorem State.mapPlane_hi (c : Nat) (f : Plane → Plane) : (s.mapPlane c f).hi = s.hi := rfl
@[simp] theorem State.mapPlane_arena (c : Nat) (f : Plane → Plane) : (s.mapPlane c f).arena = { s.arena with planes := vset s.arena.planes c ((s.plane c).map f) } := rfl
@[simp] theorem State.mapPlane_enc (c : Nat) (f : Plane → Plane) : (s.mapPlane c f).enc = s.enc := rfl
@[simp] theorem State.mapPlane_mem (c : Nat) (f : Plane → Plane) : (s.mapPlane c f).mem = s.mem := rfl
@[simp] theorem State.mapPlane_breach (c : Nat) (f : Plane → Plane) : (s.mapPlane c f).breach = s.breach := rfl
@[simp] theorem State.mapPlane_params (c : Nat) (f : Plane → Plane) : (s.mapPlane c f).params = s.params := rfl
@[simp] theorem State.mapPlane_script (c : Nat) (f : Plane → Plane) : (s.mapPlane c f).script = s.script := rfl
@[simp] theorem State.mapPlane_rdata (c : Nat) (f : Plane → Plane) : (s.mapPlane c f).rdata = s.rdata := rfl
@[simp] theorem State.mapPlane_draws (c : Nat) (f : Plane → Plane) : (s.mapPlane c f).draws = s.draws := rfl
@[simp] theorem State.mapPlane_overflow (c : Nat) (f : Plane → Plane) : (s.mapPlane c f).overflow = s.overflow := rfl

/-! A block stored. -/

@[simp] theorem State.withBlock_regs (a : Address) (b : Block) : (s.withBlock a b).regs = s.regs := rfl
@[simp] theorem State.withBlock_rd (a : Address) (b : Block) : (s.withBlock a b).rd = s.rd := rfl
@[simp] theorem State.withBlock_qm (a : Address) (b : Block) : (s.withBlock a b).qm = s.qm := rfl
@[simp] theorem State.withBlock_st (a : Address) (b : Block) : (s.withBlock a b).st = s.st := rfl
@[simp] theorem State.withBlock_fr (a : Address) (b : Block) : (s.withBlock a b).fr = s.fr := rfl
@[simp] theorem State.withBlock_sc (a : Address) (b : Block) : (s.withBlock a b).sc = s.sc := rfl
@[simp] theorem State.withBlock_pr (a : Address) (b : Block) : (s.withBlock a b).pr = s.pr := rfl
@[simp] theorem State.withBlock_tb (a : Address) (b : Block) : (s.withBlock a b).tb = s.tb := rfl
@[simp] theorem State.withBlock_sq (a : Address) (b : Block) : (s.withBlock a b).sq = s.sq := rfl
@[simp] theorem State.withBlock_hi (a : Address) (b : Block) : (s.withBlock a b).hi = s.hi := rfl
@[simp] theorem State.withBlock_arena (a : Address) (b : Block) : (s.withBlock a b).arena = { s.arena with planes := vset s.arena.planes a.c ((s.plane a.c).map fun p => p.setBlock a.x a.y b) } := rfl
@[simp] theorem State.withBlock_enc (a : Address) (b : Block) : (s.withBlock a b).enc = s.enc := rfl
@[simp] theorem State.withBlock_mem (a : Address) (b : Block) : (s.withBlock a b).mem = s.mem := rfl
@[simp] theorem State.withBlock_breach (a : Address) (b : Block) : (s.withBlock a b).breach = s.breach := rfl
@[simp] theorem State.withBlock_params (a : Address) (b : Block) : (s.withBlock a b).params = s.params := rfl
@[simp] theorem State.withBlock_script (a : Address) (b : Block) : (s.withBlock a b).script = s.script := rfl
@[simp] theorem State.withBlock_rdata (a : Address) (b : Block) : (s.withBlock a b).rdata = s.rdata := rfl
@[simp] theorem State.withBlock_draws (a : Address) (b : Block) : (s.withBlock a b).draws = s.draws := rfl
@[simp] theorem State.withBlock_overflow (a : Address) (b : Block) : (s.withBlock a b).overflow = s.overflow := rfl

/-! A sample stored. -/

@[simp] theorem State.withSample_regs (a : Address) (v : BitVec 16) : (s.withSample a v).regs = s.regs := rfl
@[simp] theorem State.withSample_rd (a : Address) (v : BitVec 16) : (s.withSample a v).rd = s.rd := rfl
@[simp] theorem State.withSample_qm (a : Address) (v : BitVec 16) : (s.withSample a v).qm = s.qm := rfl
@[simp] theorem State.withSample_st (a : Address) (v : BitVec 16) : (s.withSample a v).st = s.st := rfl
@[simp] theorem State.withSample_fr (a : Address) (v : BitVec 16) : (s.withSample a v).fr = s.fr := rfl
@[simp] theorem State.withSample_sc (a : Address) (v : BitVec 16) : (s.withSample a v).sc = s.sc := rfl
@[simp] theorem State.withSample_pr (a : Address) (v : BitVec 16) : (s.withSample a v).pr = s.pr := rfl
@[simp] theorem State.withSample_tb (a : Address) (v : BitVec 16) : (s.withSample a v).tb = s.tb := rfl
@[simp] theorem State.withSample_sq (a : Address) (v : BitVec 16) : (s.withSample a v).sq = s.sq := rfl
@[simp] theorem State.withSample_hi (a : Address) (v : BitVec 16) : (s.withSample a v).hi = s.hi := rfl
@[simp] theorem State.withSample_arena (a : Address) (v : BitVec 16) : (s.withSample a v).arena = { s.arena with planes := vset s.arena.planes a.c ((s.plane a.c).map fun p => p.setSample a.x a.y v) } := rfl
@[simp] theorem State.withSample_enc (a : Address) (v : BitVec 16) : (s.withSample a v).enc = s.enc := rfl
@[simp] theorem State.withSample_mem (a : Address) (v : BitVec 16) : (s.withSample a v).mem = s.mem := rfl
@[simp] theorem State.withSample_breach (a : Address) (v : BitVec 16) : (s.withSample a v).breach = s.breach := rfl
@[simp] theorem State.withSample_params (a : Address) (v : BitVec 16) : (s.withSample a v).params = s.params := rfl
@[simp] theorem State.withSample_script (a : Address) (v : BitVec 16) : (s.withSample a v).script = s.script := rfl
@[simp] theorem State.withSample_rdata (a : Address) (v : BitVec 16) : (s.withSample a v).rdata = s.rdata := rfl
@[simp] theorem State.withSample_draws (a : Address) (v : BitVec 16) : (s.withSample a v).draws = s.draws := rfl
@[simp] theorem State.withSample_overflow (a : Address) (v : BitVec 16) : (s.withSample a v).overflow = s.overflow := rfl

/-! BP past a segment (R202). -/

@[simp] theorem State.past_regs (lx : Nat) : (s.past lx).regs = s.regs := rfl
@[simp] theorem State.past_rd (lx : Nat) : (s.past lx).rd = { s.rd with bp := s.rd.bp + lx } := rfl
@[simp] theorem State.past_qm (lx : Nat) : (s.past lx).qm = s.qm := rfl
@[simp] theorem State.past_st (lx : Nat) : (s.past lx).st = s.st := rfl
@[simp] theorem State.past_fr (lx : Nat) : (s.past lx).fr = s.fr := rfl
@[simp] theorem State.past_sc (lx : Nat) : (s.past lx).sc = s.sc := rfl
@[simp] theorem State.past_pr (lx : Nat) : (s.past lx).pr = s.pr := rfl
@[simp] theorem State.past_tb (lx : Nat) : (s.past lx).tb = s.tb := rfl
@[simp] theorem State.past_sq (lx : Nat) : (s.past lx).sq = s.sq := rfl
@[simp] theorem State.past_hi (lx : Nat) : (s.past lx).hi = s.hi := rfl
@[simp] theorem State.past_arena (lx : Nat) : (s.past lx).arena = s.arena := rfl
@[simp] theorem State.past_enc (lx : Nat) : (s.past lx).enc = s.enc := rfl
@[simp] theorem State.past_mem (lx : Nat) : (s.past lx).mem = s.mem := rfl
@[simp] theorem State.past_breach (lx : Nat) : (s.past lx).breach = s.breach := rfl
@[simp] theorem State.past_params (lx : Nat) : (s.past lx).params = s.params := rfl
@[simp] theorem State.past_script (lx : Nat) : (s.past lx).script = s.script := rfl
@[simp] theorem State.past_rdata (lx : Nat) : (s.past lx).rdata = s.rdata := rfl
@[simp] theorem State.past_draws (lx : Nat) : (s.past lx).draws = s.draws := rfl
@[simp] theorem State.past_overflow (lx : Nat) : (s.past lx).overflow = s.overflow := rfl

/-! An allocation (R106). -/

@[simp] theorem State.allocated_regs (k : Config.AllocKind) : (s.allocated k).regs = s.regs := rfl
@[simp] theorem State.allocated_rd (k : Config.AllocKind) : (s.allocated k).rd = s.rd := rfl
@[simp] theorem State.allocated_qm (k : Config.AllocKind) : (s.allocated k).qm = s.qm := rfl
@[simp] theorem State.allocated_st (k : Config.AllocKind) : (s.allocated k).st = s.st := rfl
@[simp] theorem State.allocated_fr (k : Config.AllocKind) : (s.allocated k).fr = s.fr := rfl
@[simp] theorem State.allocated_sc (k : Config.AllocKind) : (s.allocated k).sc = s.sc := rfl
@[simp] theorem State.allocated_pr (k : Config.AllocKind) : (s.allocated k).pr = s.pr := rfl
@[simp] theorem State.allocated_tb (k : Config.AllocKind) : (s.allocated k).tb = s.tb := rfl
@[simp] theorem State.allocated_sq (k : Config.AllocKind) : (s.allocated k).sq = s.sq := rfl
@[simp] theorem State.allocated_hi (k : Config.AllocKind) : (s.allocated k).hi = s.hi := rfl
@[simp] theorem State.allocated_arena (k : Config.AllocKind) : (s.allocated k).arena = { s.arena with used := s.arena.used + allocSize s.params k } := rfl
@[simp] theorem State.allocated_enc (k : Config.AllocKind) : (s.allocated k).enc = s.enc := rfl
@[simp] theorem State.allocated_mem (k : Config.AllocKind) : (s.allocated k).mem = s.mem := rfl
@[simp] theorem State.allocated_breach (k : Config.AllocKind) : (s.allocated k).breach = s.breach := rfl
@[simp] theorem State.allocated_params (k : Config.AllocKind) : (s.allocated k).params = s.params := rfl
@[simp] theorem State.allocated_script (k : Config.AllocKind) : (s.allocated k).script = s.script := rfl
@[simp] theorem State.allocated_rdata (k : Config.AllocKind) : (s.allocated k).rdata = s.rdata := rfl
@[simp] theorem State.allocated_draws (k : Config.AllocKind) : (s.allocated k).draws = s.draws := rfl
@[simp] theorem State.allocated_overflow (k : Config.AllocKind) : (s.allocated k).overflow = s.overflow := rfl

/-! A layout record (R203-R213). -/

@[simp] theorem State.recorded_regs (f : Layout → Layout) : (s.recorded f).regs = s.regs := rfl
@[simp] theorem State.recorded_rd (f : Layout → Layout) : (s.recorded f).rd = s.rd := rfl
@[simp] theorem State.recorded_qm (f : Layout → Layout) : (s.recorded f).qm = s.qm := rfl
@[simp] theorem State.recorded_st (f : Layout → Layout) : (s.recorded f).st = s.st := rfl
@[simp] theorem State.recorded_fr (f : Layout → Layout) : (s.recorded f).fr = s.fr := rfl
@[simp] theorem State.recorded_sc (f : Layout → Layout) : (s.recorded f).sc = s.sc := rfl
@[simp] theorem State.recorded_pr (f : Layout → Layout) : (s.recorded f).pr = s.pr := rfl
@[simp] theorem State.recorded_tb (f : Layout → Layout) : (s.recorded f).tb = s.tb := rfl
@[simp] theorem State.recorded_sq (f : Layout → Layout) : (s.recorded f).sq = s.sq := rfl
@[simp] theorem State.recorded_hi (f : Layout → Layout) : (s.recorded f).hi = s.hi := rfl
@[simp] theorem State.recorded_arena (f : Layout → Layout) : (s.recorded f).arena = { s.arena with used := s.arena.used + allocSize s.params .layoutRecord, layout := f s.arena.layout } := rfl
@[simp] theorem State.recorded_enc (f : Layout → Layout) : (s.recorded f).enc = s.enc := rfl
@[simp] theorem State.recorded_mem (f : Layout → Layout) : (s.recorded f).mem = s.mem := rfl
@[simp] theorem State.recorded_breach (f : Layout → Layout) : (s.recorded f).breach = s.breach := rfl
@[simp] theorem State.recorded_params (f : Layout → Layout) : (s.recorded f).params = s.params := rfl
@[simp] theorem State.recorded_script (f : Layout → Layout) : (s.recorded f).script = s.script := rfl
@[simp] theorem State.recorded_rdata (f : Layout → Layout) : (s.recorded f).rdata = s.rdata := rfl
@[simp] theorem State.recorded_draws (f : Layout → Layout) : (s.recorded f).draws = s.draws := rfl
@[simp] theorem State.recorded_overflow (f : Layout → Layout) : (s.recorded f).overflow = s.overflow := rfl

/-! The arena drawn (R111). -/

@[simp] theorem State.drawArena_regs : s.drawArena.regs = s.regs := rfl
@[simp] theorem State.drawArena_rd : s.drawArena.rd = s.rd := rfl
@[simp] theorem State.drawArena_qm : s.drawArena.qm = s.qm := rfl
@[simp] theorem State.drawArena_st : s.drawArena.st = s.st := rfl
@[simp] theorem State.drawArena_fr : s.drawArena.fr = s.fr := rfl
@[simp] theorem State.drawArena_sc : s.drawArena.sc = s.sc := rfl
@[simp] theorem State.drawArena_pr : s.drawArena.pr = s.pr := rfl
@[simp] theorem State.drawArena_tb : s.drawArena.tb = s.tb := rfl
@[simp] theorem State.drawArena_sq : s.drawArena.sq = s.sq := rfl
@[simp] theorem State.drawArena_hi : s.drawArena.hi = s.hi := rfl
@[simp] theorem State.drawArena_arena : s.drawArena.arena = s.arena.redraw (Config.freeArena s.draws) := rfl
@[simp] theorem State.drawArena_enc : s.drawArena.enc = s.enc.redraw (Config.freeEnc s.draws) := rfl
@[simp] theorem State.drawArena_mem : s.drawArena.mem = s.mem := rfl
@[simp] theorem State.drawArena_breach : s.drawArena.breach = s.breach := rfl
@[simp] theorem State.drawArena_params : s.drawArena.params = s.params := rfl
@[simp] theorem State.drawArena_script : s.drawArena.script = s.script := rfl
@[simp] theorem State.drawArena_rdata : s.drawArena.rdata = s.rdata := rfl
@[simp] theorem State.drawArena_draws : s.drawArena.draws = s.draws + 1 := rfl
@[simp] theorem State.drawArena_overflow : s.drawArena.overflow = s.overflow := rfl

/-! The engine's use of the arena in host memory (R100). -/

@[simp] theorem State.spill_regs : s.spill.regs = s.regs := rfl
@[simp] theorem State.spill_rd : s.spill.rd = s.rd := rfl
@[simp] theorem State.spill_qm : s.spill.qm = s.qm := rfl
@[simp] theorem State.spill_st : s.spill.st = s.st := rfl
@[simp] theorem State.spill_fr : s.spill.fr = s.fr := rfl
@[simp] theorem State.spill_sc : s.spill.sc = s.sc := rfl
@[simp] theorem State.spill_pr : s.spill.pr = s.pr := rfl
@[simp] theorem State.spill_tb : s.spill.tb = s.tb := rfl
@[simp] theorem State.spill_sq : s.spill.sq = s.sq := rfl
@[simp] theorem State.spill_hi : s.spill.hi = s.hi := rfl
@[simp] theorem State.spill_arena : s.spill.arena = s.arena := rfl
@[simp] theorem State.spill_enc : s.spill.enc = s.enc := rfl
@[simp] theorem State.spill_breach : s.spill.breach = s.breach := rfl
@[simp] theorem State.spill_params : s.spill.params = s.params := rfl
@[simp] theorem State.spill_script : s.spill.script = s.script := rfl
@[simp] theorem State.spill_rdata : s.spill.rdata = s.rdata := rfl
@[simp] theorem State.spill_draws : s.spill.draws = s.draws := rfl
@[simp] theorem State.spill_overflow : s.spill.overflow = s.overflow := rfl

/-! Output bytes stored (R104, R111). -/

@[simp] theorem State.store_regs (a : Nat) (bytes : List Byte) : (s.store a bytes).regs = s.regs := rfl
@[simp] theorem State.store_rd (a : Nat) (bytes : List Byte) : (s.store a bytes).rd = s.rd := rfl
@[simp] theorem State.store_qm (a : Nat) (bytes : List Byte) : (s.store a bytes).qm = s.qm := rfl
@[simp] theorem State.store_st (a : Nat) (bytes : List Byte) : (s.store a bytes).st = s.st := rfl
@[simp] theorem State.store_fr (a : Nat) (bytes : List Byte) : (s.store a bytes).fr = s.fr := rfl
@[simp] theorem State.store_sc (a : Nat) (bytes : List Byte) : (s.store a bytes).sc = s.sc := rfl
@[simp] theorem State.store_pr (a : Nat) (bytes : List Byte) : (s.store a bytes).pr = s.pr := rfl
@[simp] theorem State.store_tb (a : Nat) (bytes : List Byte) : (s.store a bytes).tb = s.tb := rfl
@[simp] theorem State.store_sq (a : Nat) (bytes : List Byte) : (s.store a bytes).sq = s.sq := rfl
@[simp] theorem State.store_hi (a : Nat) (bytes : List Byte) : (s.store a bytes).hi = s.hi := rfl
@[simp] theorem State.store_arena (a : Nat) (bytes : List Byte) : (s.store a bytes).arena = s.arena := rfl
@[simp] theorem State.store_enc (a : Nat) (bytes : List Byte) : (s.store a bytes).enc = s.enc := rfl
@[simp] theorem State.store_mem (a : Nat) (bytes : List Byte) : (s.store a bytes).mem = Memory.storeList s.breach.out s.mem a bytes := rfl
@[simp] theorem State.store_breach (a : Nat) (bytes : List Byte) : (s.store a bytes).breach = s.breach := rfl
@[simp] theorem State.store_params (a : Nat) (bytes : List Byte) : (s.store a bytes).params = s.params := rfl
@[simp] theorem State.store_script (a : Nat) (bytes : List Byte) : (s.store a bytes).script = s.script := rfl
@[simp] theorem State.store_rdata (a : Nat) (bytes : List Byte) : (s.store a bytes).rdata = s.rdata := rfl
@[simp] theorem State.store_draws (a : Nat) (bytes : List Byte) : (s.store a bytes).draws = s.draws := rfl
@[simp] theorem State.store_overflow (a : Nat) (bytes : List Byte) : (s.store a bytes).overflow = s.overflow := rfl

/-! A scan opened (R266). -/

@[simp] theorem State.openScan_regs : s.openScan.regs = s.regs := rfl
@[simp] theorem State.openScan_rd : s.openScan.rd = s.rd := rfl
@[simp] theorem State.openScan_qm : s.openScan.qm = s.qm := rfl
@[simp] theorem State.openScan_st : s.openScan.st = s.st := rfl
@[simp] theorem State.openScan_fr : s.openScan.fr = s.fr := rfl
@[simp] theorem State.openScan_pr : s.openScan.pr = s.pr := rfl
@[simp] theorem State.openScan_tb : s.openScan.tb = s.tb := rfl
@[simp] theorem State.openScan_sq : s.openScan.sq = { s.sq with phase := .interval } := rfl
@[simp] theorem State.openScan_hi : s.openScan.hi = s.hi := rfl
@[simp] theorem State.openScan_arena : s.openScan.arena = s.arena := rfl
@[simp] theorem State.openScan_enc : s.openScan.enc = s.enc := rfl
@[simp] theorem State.openScan_mem : s.openScan.mem = s.mem := rfl
@[simp] theorem State.openScan_breach : s.openScan.breach = s.breach := rfl
@[simp] theorem State.openScan_params : s.openScan.params = s.params := rfl
@[simp] theorem State.openScan_script : s.openScan.script = s.script := rfl
@[simp] theorem State.openScan_rdata : s.openScan.rdata = s.rdata := rfl
@[simp] theorem State.openScan_draws : s.openScan.draws = s.draws := rfl
@[simp] theorem State.openScan_overflow : s.openScan.overflow = s.overflow := rfl

/-! An interval entered (R265). -/

@[simp] theorem State.enterInterval_regs (iv : Interval) : (s.enterInterval iv).regs = s.regs := rfl
@[simp] theorem State.enterInterval_rd (iv : Interval) : (s.enterInterval iv).rd = { bp := iv.off, segEnd := iv.off + iv.len, bitBuf := 0, bitCnt := 0 } := rfl
@[simp] theorem State.enterInterval_qm (iv : Interval) : (s.enterInterval iv).qm = if s.fr.isArithmetic then initDec else s.qm := rfl
@[simp] theorem State.enterInterval_st (iv : Interval) : (s.enterInterval iv).st = Stats.init := rfl
@[simp] theorem State.enterInterval_fr (iv : Interval) : (s.enterInterval iv).fr = s.fr := rfl
@[simp] theorem State.enterInterval_sc (iv : Interval) : (s.enterInterval iv).sc = { s.sc with unit := s.firstUnit, entry := 0 } := rfl
@[simp] theorem State.enterInterval_pr (iv : Interval) : (s.enterInterval iv).pr = s.fr.freshPred := rfl
@[simp] theorem State.enterInterval_tb (iv : Interval) : (s.enterInterval iv).tb = s.tb := rfl
@[simp] theorem State.enterInterval_sq (iv : Interval) : (s.enterInterval iv).sq = { s.sq with phase := .unit } := rfl
@[simp] theorem State.enterInterval_hi (iv : Interval) : (s.enterInterval iv).hi = s.hi := rfl
@[simp] theorem State.enterInterval_arena (iv : Interval) : (s.enterInterval iv).arena = s.arena := rfl
@[simp] theorem State.enterInterval_enc (iv : Interval) : (s.enterInterval iv).enc = s.enc := rfl
@[simp] theorem State.enterInterval_mem (iv : Interval) : (s.enterInterval iv).mem = s.mem := rfl
@[simp] theorem State.enterInterval_breach (iv : Interval) : (s.enterInterval iv).breach = s.breach := rfl
@[simp] theorem State.enterInterval_params (iv : Interval) : (s.enterInterval iv).params = s.params := rfl
@[simp] theorem State.enterInterval_script (iv : Interval) : (s.enterInterval iv).script = s.script := rfl
@[simp] theorem State.enterInterval_rdata (iv : Interval) : (s.enterInterval iv).rdata = s.rdata := rfl
@[simp] theorem State.enterInterval_draws (iv : Interval) : (s.enterInterval iv).draws = s.draws := rfl
@[simp] theorem State.enterInterval_overflow (iv : Interval) : (s.enterInterval iv).overflow = s.overflow := rfl

/-! What no draw changes (R111, R550). -/

@[simp] theorem State.refresh_regs : s.refresh.regs = s.regs := by unfold State.refresh; split <;> rfl
@[simp] theorem State.refresh_rd : s.refresh.rd = s.rd := by unfold State.refresh; split <;> rfl
@[simp] theorem State.refresh_qm : s.refresh.qm = s.qm := by unfold State.refresh; split <;> rfl
@[simp] theorem State.refresh_st : s.refresh.st = s.st := by unfold State.refresh; split <;> rfl
@[simp] theorem State.refresh_fr : s.refresh.fr = s.fr := by unfold State.refresh; split <;> rfl
@[simp] theorem State.refresh_sc : s.refresh.sc = s.sc := by unfold State.refresh; split <;> rfl
@[simp] theorem State.refresh_pr : s.refresh.pr = s.pr := by unfold State.refresh; split <;> rfl
@[simp] theorem State.refresh_tb : s.refresh.tb = s.tb := by unfold State.refresh; split <;> rfl
@[simp] theorem State.refresh_sq : s.refresh.sq = s.sq := by unfold State.refresh; split <;> rfl
@[simp] theorem State.refresh_hi : s.refresh.hi = s.hi := by unfold State.refresh; split <;> rfl
@[simp] theorem State.refresh_mem : s.refresh.mem = s.mem := by unfold State.refresh; split <;> rfl
@[simp] theorem State.refresh_breach : s.refresh.breach = s.breach := by unfold State.refresh; split <;> rfl
@[simp] theorem State.refresh_params : s.refresh.params = s.params := by unfold State.refresh; split <;> rfl
@[simp] theorem State.refresh_script : s.refresh.script = s.script := by unfold State.refresh; split <;> rfl
@[simp] theorem State.refresh_rdata : s.refresh.rdata = s.rdata := by unfold State.refresh; split <;> rfl
@[simp] theorem State.refresh_overflow : s.refresh.overflow = s.overflow := by unfold State.refresh; split <;> rfl

/-- Without a breach of the host discipline an engine step finds the state as it is. -/
theorem State.refresh_kept {s : State} (h : s.breach.arena = false) : s.refresh = s := by simp [State.refresh, h]

/-- After a breach an engine step finds the arena drawn. -/
theorem State.refresh_drawn {s : State} (h : s.breach.arena = true) : s.refresh = s.drawArena := by simp [State.refresh, h]

end Sys2Proof.Machine
end

