-- ==== Sys2Proof/Tests/Slice0.lean ====
section
/-! SUPPORT. The model's own tests: the smoke of WellFormed, words of the tables, a few effects worked out from the spec's examples and
vectors, and for every statement with hypotheses a state that meets them (`witness_…`). -/

open Sys2Proof Sys2Proof.Machine

namespace Sys2Proof.Tests

set_option Elab.async false

/-! ### Small states and observers -/

/-- The engine busy in a phase, its input the given bytes from host address 256 on, BP at the first of them, all of them one
interval, an output of 64 bytes and an arena of 65536. -/
def box (p : Phase) (bytes : List Byte) : State :=
  { State.reset with
    mem := State.reset.mem.writeList 256 bytes
    regs := { State.reset.regs with
      status := 1, inBase := 256, inLen := BitVec.ofNat 32 bytes.length, outBase := 0x2000, outLen := 64,
      scrBase := 0x3000, scrLen := 0x10000 }
    rd := { State.reset.rd with segEnd := bytes.length }
    sq := { State.reset.sq with phase := p } }

/-- A frame record with `n` scans, each of one interval. -/
def frames (n : Nat) : List FrameRec := [⟨2, 0, List.replicate n ⟨20, [⟨30, 1⟩]⟩⟩]

/-- A layout with frames. -/
def State.withFrames (s : State) (f : List FrameRec) : State :=
  { s with arena := { s.arena with layout := { s.arena.layout with frames := f } } }

/-- A hierarchical image of 4 x 2, one component. -/
def State.withDhp (s : State) : State := { s with hi := { s.hi with dhp := some ⟨8, 2, 4, [(1, 1, 1)]⟩ } }

/-- A scan of one 8x8 block of the process `ft` (its coefficients `blk`), band `ss..se`, tables DC and AC. -/
def unitBox (ft : BitVec 4) (ss se : BitVec 6) (al : BitVec 4) (blk : Block) (bytes : List Byte) : State :=
  let s := box .unit bytes
  let fr : Frame := { s.fr with
    ft := ft, p := 8, x := 8, y := 8, nf := 1, hmax := 1, vmax := 1, comp := Vector.replicate 4 ⟨1, 0, 0, 0, 1, 1⟩ }
  { s with
    fr := fr
    sc := { s.sc with ns := 1, ss := ss, se := se, al := al, mcud := [⟨0, 0, 0⟩], nunits := 1, ni := 1 }
    pr := fr.freshPred
    qm := initDec
    arena := { s.arena with
      planes := vset s.arena.planes 0 (some (.dct 1 1 [blk]))
      dcTables := vset s.arena.dcTables 0 ((buildTrie refDcLumaBits refDcLumaVals).map (⟨·, 52⟩))
      acTables := vset s.arena.acTables 0 ((buildTrie refAcLumaBits refAcLumaVals).map (⟨·, 652⟩)) } }

/-- The block of zeros. -/
def zeroBlock : Block := Vector.replicate 64 0

/-- A block from its first coefficients. -/
def blockOf (cs : List Int) : Block := Vector.ofFn fun k => lget cs k.val 0

/-- A lossless scan of one component of 4 x 2 samples with predictor `ss`, unit `u` next. -/
def losslessBox (ft : BitVec 4) (ss : BitVec 6) (u : Nat) (samples : List (BitVec 16)) (bytes : List Byte) : State :=
  let s := unitBox ft ss 0 0 zeroBlock bytes
  let fr : Frame := { s.fr with x := 4, y := 2 }
  { s with
    fr := fr, pr := fr.freshPred
    sc := { s.sc with nunits := 8, unit := u }
    arena := { s.arena with planes := vset s.arena.planes 0 (some (.lossless 4 2 (samples ++ List.replicate (15 - samples.length) 0))) } }

/-- A block in progress. -/
def State.opened (s : State) (m : Mode) (k : Nat) (st : Stage) : State :=
  { s with sq := { s.sq with block := some ⟨m, ⟨0, 0, 0⟩, k, st⟩ } }

/-- The outcome is a next state with a property. -/
def nextIs (o : Host.Outcome State Fault Refusal) (p : State → Bool) : Bool :=
  match o with
  | .next s => p s
  | .fault _ => false
  | .refused _ => false

/-- The operation ended with the error of a code (R545). -/
def failed (code : Nat) (t : State) : Bool := t.regs.status == 6 && t.regs.errcode.toNat == code

/-- The first coefficients of the block. -/
def coeffs (t : State) (n : Nat) : Option (List Int) := (t.block? ⟨0, 0, 0⟩).map fun b => b.toList.take n

/-- The action ends well with a property of its value and state. -/
def okIs {α : Type} (m : Except Stop (α × State)) (p : α → State → Bool) : Bool :=
  match m with
  | .ok r => p r.1 r.2
  | .error _ => false

theorem okIs_elim {α : Type} {m : Except Stop (α × State)} {p : α → State → Bool} (h : okIs m p = true) :
    ∃ a t, m = .ok (a, t) ∧ p a t = true := by
  cases m with
  | ok r => exact ⟨r.1, r.2, rfl, h⟩
  | error e => cases h

/-! ### WellFormed -/

theorem test_wf_hufSeq_differential_baseline : (Instr.hufSeq true false).wf = false := by decide
theorem test_wf_eobn_zero : (Instr.eobn 0).wf = false := by decide
theorem test_wf_eobn_fifteen : (Instr.eobn 15).wf = false := by decide
theorem test_wf_acCoeff_zero : (Instr.acCoeff 3 0).wf = false := by decide
theorem test_wf_accepted : (Instr.hufSeq false false).wf = true ∧ (Instr.eobn 14).wf = true ∧ (Instr.acCoeff 15 1).wf = true := by
  decide

/-! ### Words of the tables (R132, R158, R153, R154, R156, R32) -/

theorem test_decode_reserved :
    [0x01, 0x03, 0x06, 0x0D, 0x15, 0x2A, 0x55, 0x9C, 0xC8, 0xF5, 0xFA, 0xFD].map (fun m => decodeInstr .marker [0xFF, m]) =
      [some .tem, some (.res02 1), some (.res04 2), some (.res08 5), some (.res10 5), some (.res20 10), some (.res40 21),
        some (.res80 28), some .jpg, some (.jpg0 5), some (.jpg8 2), some (.jpg12 1)] := by decide

theorem test_decode_frames :
    [0xC0, 0xC1, 0xC2, 0xC3, 0xC5, 0xC6, 0xC7].map (fun m => decodeInstr .marker [0xFF, m]) =
      [some .sof0, some .sof1, some .sof2, some .sof3, some .sof5, some .sof6, some .sof7] ∧
    [0xC9, 0xCA, 0xCB, 0xCD, 0xCE, 0xCF].map (fun m => decodeInstr .marker [0xFF, m]) =
      [some .sof9, some .sof10, some .sof11, some .sof13, some .sof14, some .sof15] := by decide

theorem test_decode_tables :
    [0xC4, 0xCC, 0xD3, 0xD8, 0xD9, 0xDA, 0xDB, 0xDC, 0xDD, 0xDE, 0xDF].map (fun m => decodeInstr .marker [0xFF, m]) =
      [some .dht, some .dac, some (.rst 3), some .soi, some .eoi, some .sos, some .dqt, some .dnl, some .dri, some .dhp,
        some .exp] := by decide

theorem test_decode_applications :
    [0xE0, 0xE1, 0xE3, 0xE6, 0xEA, 0xED, 0xEE, 0xEF, 0xFE].map (fun m => decodeInstr .marker [0xFF, m]) =
      [some .app0, some .app1, some (.app2 1), some (.app4 2), some (.app8 2), some (.app12 1), some .app14, some .app15,
        some .com] := by decide

theorem test_decode_selectors :
    [0x00, 0x10, 0x50, 0x20, 0x61, 0x22, 0x63, 0x30, 0xD0, 0xA0, 0xE1, 0xA2, 0xE3, 0xB0].map (fun b => decodeInstr .sel [b]) =
      [some (.hufSeq false false), some (.hufSeq false true), some (.hufSeq true true), some (.hufDcFirst false),
        some (.hufDcRefine true), some (.hufAcFirst false), some (.hufAcRefine true), some (.hufLossless false),
        some (.ariSeq true), some (.ariDcFirst false), some (.ariDcRefine true), some (.ariAcFirst false),
        some (.ariAcRefine true), some (.ariLossless false)] := by decide

theorem test_decode_selectors_reserved :
    [0x40, 0x01, 0x24, 0x31, 0x80, 0xC0, 0x92].map (fun b => decodeInstr .sel [b]) = List.replicate 7 none := by decide

theorem test_decode_symbols :
    decodeInstr .symDc [0x0F] = some (.dcCategory 15) ∧ decodeInstr .symLossless [0x0B] = some (.losslessDiff 11) ∧
    decodeInstr .symLossless [0x10] = none ∧
    [0x00, 0xF0, 0xE0, 0xF1, 0x2A].map (fun b => decodeInstr .symAc [b]) =
      [some .eob, some .zrl, some (.eobn 14), some (.acCoeff 15 1), some (.acCoeff 2 10)] := by decide

theorem test_decode_commands :
    decodeInstr .ctrl [0x05, 0, 0, 0] = some (.decode true) ∧ decodeInstr .ctrl [0xFB, 0xFF, 1, 2] = some (.encode false) ∧
    decodeInstr .ctrl [0x02, 0, 0, 0] = none ∧ decodeInstr .ctrl [0x01, 0, 0] = none := by decide

theorem test_decode_table_words :
    decodeTableWord 16 0xFFDA = some .sos ∧ decodeTableWord 8 0xF0 = some .zrl ∧ decodeTableWord 8 0x63 = some (.hufAcRefine true) ∧
    decodeTableWord 8 0x0B = some (.dcCategory 11) ∧ decodeTableWord 8 0x71 = some (.acCoeff 7 1) ∧
    decodeTableWord 32 3 = some (.encode false) := by decide

/-! ### Effects, from the spec's examples -/

/-- R201: `FF D8 FF 01` fails at TEM. -/
theorem test_step_tem : nextIs (step (box .scan [0xFF, 0x01])) (failed 1) = true := by decide +kernel

/-- R205: the entropy data of `FF DA 00 08 01 01 00 00 3F 00` starts 10 bytes after the marker. -/
theorem test_step_sos :
    nextIs (step (State.withFrames (box .scan [0xFF, 0xDA, 0x00, 0x08, 0x01, 0x01, 0x00, 0x00, 0x3F, 0x00]) (frames 0)))
      (fun t => t.rd.bp == 10 && t.sq.ivstart == 10 && t.sq.phase == .entropy) = true := by decide +kernel

/-- R210: `FF D8 FF D9` fails, as there is no frame. -/
theorem test_step_eoi : nextIs (step (box .scan [0xFF, 0xD9])) (failed 1) = true := by decide +kernel

/-- V-MK-28: EXIF_OFF = 12 and EXIF_LEN = 8 for an Exif segment at offset 2. -/
theorem test_step_exif :
    nextIs (exec .app1 (let s := box .scan [0, 0, 0xFF, 0xE1, 0, 0x10, 0x45, 0x78, 0x69, 0x66, 0, 0, 1, 2, 3, 4, 5, 6, 7, 8]
        { s with rd := { s.rd with bp := 4 }, sq := { s.sq with moff := 2 } }))
      (fun t => t.regs.exifOff == 12 && t.regs.exifLen == 8 && t.regs.info == 2 && t.rd.bp == 20) = true := by decide +kernel

/-- V-MK-29: a comment is skipped. -/
theorem test_step_com : nextIs (step (box .scan [0xFF, 0xFE, 0x00, 0x04, 0x41, 0x42])) (fun t => t.rd.bp == 6) = true := by
  decide +kernel

/-- V-MK-13: DRI requires Lx = 4. -/
theorem test_exec_dri_length : nextIs (exec .dri (box .replaySos [0x00, 0x05, 0x00, 0x01, 0x00])) (failed 1) = true := by
  decide +kernel

/-- R223: RI takes the segment's value. -/
theorem test_exec_dri : nextIs (exec .dri (box .replaySos [0x00, 0x04, 0x01, 0x02])) (fun t => t.tb.ri == 0x0102) = true := by
  decide +kernel

/-- V-MK-25: the defaults restated. -/
theorem test_exec_dac :
    nextIs (exec .dac (box .replaySos [0x00, 0x06, 0x03, 0x42, 0x11, 0x3F]))
      (fun t => vget t.tb.dacDc 3 0 == 0x42 && vget t.tb.dacAc 1 0 == 0x3F && vget t.tb.dacDc 0 0 == 0x10) = true := by
  decide +kernel

/-- V-MK-26 and V-MK-27: L below U, Kx in 1..63. -/
theorem test_exec_dac_ranges :
    nextIs (exec .dac (box .replaySos [0x00, 0x04, 0x00, 0x11])) (failed 1) = true ∧
    nextIs (exec .dac (box .replaySos [0x00, 0x04, 0x10, 0x40])) (failed 1) = true := by decide +kernel

/-- V-MK-10: three codes of length 1 are overfull. -/
theorem test_exec_dht_overfull :
    nextIs (exec .dht (box .replaySos ([0x00, 0x16, 0x00, 0x03] ++ List.replicate 15 0 ++ [0x00, 0x01, 0x02]))) (failed 1) =
      true := by decide +kernel

/-- R220: a table of one code of one bit. -/
theorem test_exec_dht :
    nextIs (exec .dht (box .replaySos ([0x00, 0x14, 0x12, 0x01] ++ List.replicate 15 0 ++ [0x07])))
      (fun t => (t.arena.slot 1 2).map (·.codes) == some [⟨0, 1, 7⟩] && t.arena.slot 0 2 == none) = true := by decide +kernel

/-- V-MK-12: Pq = 2. -/
theorem test_exec_dqt_precision :
    nextIs (exec .dqt (box .replaySos ([0x00, 0x43, 0x20] ++ List.replicate 64 1))) (failed 1) = true := by decide +kernel

/-- R290: the codes of the reference DC luminance table. -/
theorem test_buildTrie_reference :
    (buildTrie refDcLumaBits refDcLumaVals).map (fun l => l.map fun c => (c.code, c.len)) =
      some ([(0, 2), (2, 3), (3, 3), (4, 3), (5, 3), (6, 3), (14, 4), (30, 5)] ++ [(62, 6), (126, 7), (254, 8), (510, 9)]) := by
  decide

/-- R294: the four examples. -/
theorem test_extend : [extend 0b101 3, extend 0b010 3, extend 0 1, extend 1 1] = [5, -5, -1, 1] := by decide

/-- R319: `FE 90 2B` is DC category 10 with 576, then EOB. -/
theorem test_exec_hufSeq :
    nextIs (exec (.hufSeq false false) (unitBox 0 0 63 0 zeroBlock [0xFE, 0x90, 0x2B]))
      (fun t => coeffs t 3 == some [576, 0, 0] && vget t.pr.pred 0 0 == 576 && t.rd.bp == 3) = true := by decide +kernel

/-- R310: AL = 1 and the difference 3 (category 2, bits 011 11) give `blk[0]` = 6. -/
theorem test_exec_hufDcFirst :
    nextIs (exec (.hufDcFirst false) (unitBox 2 0 0 1 zeroBlock [0x7F])) (fun t => coeffs t 1 == some [6]) = true := by
  decide +kernel

/-- R312: `blk[0]` = 6, AL = 0, bit 1 give 7; and -4 with bit 1 of AL = 1 gives -2. -/
theorem test_exec_hufDcRefine :
    nextIs (exec (.hufDcRefine false) (unitBox 2 0 0 0 (blockOf [6]) [0x80])) (fun t => coeffs t 1 == some [7]) = true ∧
    nextIs (exec (.hufDcRefine false) (unitBox 2 0 0 1 (blockOf [-4]) [0x80])) (fun t => coeffs t 1 == some [-2]) = true := by
  decide +kernel

/-- R314: inside an end-of-band run a block only counts it down. -/
theorem test_exec_hufAcFirst_run :
    nextIs (exec (.hufAcFirst false) (let s := unitBox 2 1 63 0 zeroBlock []; { s with pr := { s.pr with eobrun := 6 } }))
      (fun t => t.pr.eobrun == 5 && coeffs t 2 == some [0, 0]) = true := by decide +kernel

/-- R316: the worked example. -/
theorem test_exec_hufAcRefine :
    nextIs (exec (.hufAcRefine false) (unitBox 2 1 5 0 (blockOf [0, 2, 0, 0, -2, 0]) [0xCE, 0xBF]))
      (fun t => coeffs t 6 == some [0, 3, 0, 1, -3, 0] && t.pr.eobrun == 0 && t.rd.bp == 2) = true := by decide +kernel

/-- R314: EOBn of exponent 2 with bits 11 sets EOBRUN = 6. -/
theorem test_exec_eobn :
    nextIs (exec (.eobn 2) (State.opened (unitBox 2 1 63 0 zeroBlock [0xFF, 0x00]) .first 1 .ac))
      (fun t => t.pr.eobrun == 6 && t.sq.block == none) = true := by decide +kernel

/-- R302: RS = 0x21 with extra bit 1 at k = 1 gives `blk[3]` = 1. -/
theorem test_exec_acCoeff :
    nextIs (exec (.acCoeff 2 1) (State.opened (unitBox 0 0 63 0 zeroBlock [0x80]) .seq 1 .ac))
      (fun t => coeffs t 5 == some [0, 0, 0, 1, 0] && (t.sq.block.map (·.k)) == some 4) = true := by decide +kernel

/-- R302: sixteen zeros from k = 48 end the block, from k = 49 they are too many. -/
theorem test_exec_zrl :
    nextIs (exec .zrl (State.opened (unitBox 0 0 63 0 zeroBlock []) .seq 48 .ac)) (fun t => t.sq.block == none) = true ∧
    nextIs (exec .zrl (State.opened (unitBox 0 0 63 0 zeroBlock []) .seq 49 .ac)) (failed 1) = true := by decide +kernel

/-- R302: EOB ends a sequential block and reads nothing. -/
theorem test_exec_eob :
    nextIs (exec .eob (State.opened (unitBox 0 0 63 0 zeroBlock []) .seq 1 .ac)) (fun t => t.sq.block == none && t.rd.bp == 0) =
      true := by decide +kernel

/-- R301: category 3 with bits 010 is -5, added to PRED. -/
theorem test_exec_dcCategory :
    nextIs (exec (.dcCategory 3) (State.opened (unitBox 0 0 63 0 zeroBlock [0x40]) .seq 0 .dc))
      (fun t => coeffs t 1 == some [-5] && vget t.pr.pred 0 0 == -5 && (t.sq.block.map (·.stage)) == some .ac) = true := by
  decide +kernel

/-- R405: the first sample of a scan is 2^(P-Pt-1) plus the difference; category 0 is the difference 0. -/
theorem test_exec_losslessDiff :
    nextIs (exec (.losslessDiff 0) (State.opened (losslessBox 3 1 0 [] []) .lossless 0 .dc))
      (fun t => t.sample? ⟨0, 0, 0⟩ == some 128) = true := by decide +kernel

/-- R405: in the first row the prediction is the left sample; category 1 with bit 0 is -1. -/
theorem test_exec_hufLossless :
    nextIs (exec (.hufLossless false) (losslessBox 3 4 1 ([0, 0, 0, 0, 0] ++ [0, 130]) [0x4F]))
      (fun t => t.sample? ⟨0, 1, 0⟩ == some 129 && t.pr.left ⟨0, 1, 0⟩ 0 == -1) = true := by decide +kernel

/-- R412: in a unit of two rows the differences of the two rows stand side by side. -/
theorem test_recordDiff_rows :
    (let p := (Pred.init.recordDiff ⟨0, 0, 0⟩ 0 5).recordDiff ⟨0, 0, 1⟩ 1 7
     [p.left ⟨0, 1, 0⟩ 0, p.left ⟨0, 1, 1⟩ 1] = [5, 7]) := by decide

/-- R213: a DNL before any frame; R226, R584: an EXP in an image without DHP is found at EOI. -/
theorem test_exec_scan_misplaced :
    nextIs (exec .dnl (box .scan [0, 4, 0, 1])) (failed 1) = true ∧
    nextIs (exec .eoi (let s := State.withFrames (box .scan []) (frames 1)
      { s with arena := { s.arena with layout := { s.arena.layout with aux := [⟨90, .exp⟩] } } })) (failed 1) = true := by
  decide +kernel

/-- R406: the examples of the seven predictors. -/
theorem test_predictSv :
    [4, 5, 6, 7].map (fun ss => predictSv ss 10 20 15) = [15, 12, 17, 15] ∧ predictSv 5 10 13 16 = 8 ∧
    [0, 1, 2, 3].map (fun ss => predictSv ss 10 20 15) = [0, 10, 20, 15] := by decide

/-- R344: from the start state, bytes of zero decide the MPS. -/
theorem test_arithDecode_start :
    okIs (arithDecode (.dc 0 0) (unitBox 8 0 63 0 zeroBlock [0, 0])) (fun b t => !b && t.rd.bp == 2) = true := by decide +kernel

/-- V-AR-4: `D2 E7 E0` is ARI_SEQ of the block whose DC is 576. -/
theorem test_exec_ariSeq :
    nextIs (exec (.ariSeq false) (unitBox 9 0 63 0 zeroBlock [0xD2, 0xE7, 0xE0, 0x20])) (fun t => coeffs t 3 == some [576, 0, 0]) =
      true := by decide +kernel

/-- R357: no bin is updated. -/
theorem test_exec_ariDcRefine :
    nextIs (exec (.ariDcRefine false) (unitBox 10 0 0 0 (blockOf [6]) [0, 0]))
      (fun t => t.st.binByte (.dc 0 0) == 0 && t.st.binByte (.ac 0 1) == 0 && coeffs t 1 == some [6]) = true := by decide +kernel

/-- R443: DC 576 alone is 72 everywhere, 200 after the level shift. -/
theorem test_idct_dc : vget (idct Params.reset 8 false (blockOf [576])) 0 0 = 200 ∧
    vget (idct Params.reset 8 true (blockOf [576])) 63 0 = 72 := by decide +kernel

/-- R454: P = 8, v = 200 gives 0xC8C8; V-MK-22: P = 12, v = 2120 gives 0x8488. -/
theorem test_scale16 : scale16 Params.reset 8 200 = 0xC8C8 ∧ scale16 Params.reset 12 2120 = 0x8488 := by decide

/-- R545 in a decode: the results are withdrawn. -/
theorem test_failEntry :
    let t := failEntry .imageTooLarge (box .scan [])
    t.regs.errcode = 3 ∧ t.regs.status = 6 ∧ t.regs.exifOff = 0xFFFFFFFF ∧ t.mem.unspec = [(0x2000, 0x2040)] := by decide +kernel

/-- R583: a decode clears INFO and leaves OUT_USED; an encode clears OUT_USED. -/
theorem test_exec_commands :
    nextIs (exec (.decode true) { State.reset with regs := { HostRegs.reset with info := 5, outUsed := 7 } })
      (fun t => t.regs.ctrl == 4 && t.regs.status == 1 && t.regs.info == 0 && t.regs.outUsed == 7 && t.sq.phase == .soi) = true ∧
    nextIs (exec (.encode false) { State.reset with regs := { HostRegs.reset with info := 5, outUsed := 7 } })
      (fun t => t.regs.ctrl == 2 && t.regs.info == 5 && t.regs.outUsed == 0 && t.sq.phase == .encRead) = true := by decide +kernel

/-- R135, R512: the decoder takes the encoder's SOS(Cb,Cr) with the length of R135, and not with that of R512. -/
theorem test_sosChroma :
    okIs (readNs 10 (box .replaySos ((sosChroma .layout).drop 2))) (fun ns _ => ns == 2) = true ∧
    okIs (readNs 12 (box .replaySos ((sosChroma .table).drop 2))) (fun _ _ => true) = false := by decide +kernel

/-! ### Witnesses: encodings and the step -/

theorem witness_EncodeThenDecode : (Instr.acCoeff 15 15).wf = true ∧ (Instr.eobn 1).wf = true ∧ (Instr.hufSeq true true).wf = true := by
  decide

theorem witness_DecodedBytesEncodeBack :
    Space.symAc ≠ .ctrl ∧ decode .symAc [0xF1, 0x07] = .ok (.acCoeff 15 1, [0x07]) ∧
    decode .marker [0xFF, 0xFD] = .ok (.jpg12 1, []) ∧ decode .sel [0x50] = .ok (.hufSeq true true, []) :=
  ⟨by decide, rfl, rfl, rfl⟩

theorem witness_StepRunsTheNextMarker :
    (let s := box .scan [0xFF, 0xD9]
     s.script = [] ∧ s.sq.phase = .scan ∧ s.undisturbed ∧ s.readable s.rd.bp 2 ∧ (∀ k ≤ 0, s.inByte (s.rd.bp + k) = 0xFF) ∧
     s.inByte (s.rd.bp + 1) = 0xD9) ∧
    (let s := box .scan [0xFF, 0xFF, 0xFF, 0xFE, 0x00, 0x02]
     s.readable s.rd.bp 4 ∧ (∀ k ≤ 2, s.inByte (s.rd.bp + k) = 0xFF) ∧ s.inByte (s.rd.bp + 3) = 0xFE) ∧
    decodeInstr .marker [0xFF, 0xD9] = some .eoi ∧ decodeInstr .marker [0xFF, 0xFE] = some .com := by decide +kernel

theorem witness_StepRunsTheNextMarker_errors :
    (box .scan [0xFF]).inLen < (box .scan [0xFF]).rd.bp + 2 ∧
    ((box .scan [0xFE, 0xD9]).readable 0 2 ∧ (box .scan [0xFE, 0xD9]).inByte 0 ≠ 0xFF) ∧
    (let s := box .scan [0xFF, 0xFF]
     s.readable 0 2 ∧ (∀ k ≤ 0 + 1, s.inByte (0 + k) = 0xFF) ∧ s.inLen = 0 + 0 + 2) ∧
    (let s := box .scan [0xFF, 0xFF, 0x00]
     s.readable 0 3 ∧ (∀ k ≤ 1, s.inByte (0 + k) = 0xFF) ∧ s.inByte (0 + 1 + 1) = 0x00) := by decide +kernel

theorem witness_StreamStartsWithSoi :
    ((box .soi [0xFF]).script = [] ∧ (box .soi [0xFF]).sq.phase = .soi ∧ (box .soi [0xFF]).undisturbed ∧ (box .soi [0xFF]).inLen < 2) ∧
    ((box .soi [0xFF, 0xD9]).readable 0 2 ∧ (box .soi [0xFF, 0xD9]).inWord 0 ≠ 0xFFD8) ∧
    ((box .soi [0xFF, 0xD8]).readable 0 2 ∧ (box .soi [0xFF, 0xD8]).inWord 0 = 0xFFD8) := by decide +kernel

/-- Stuffed data, two fill bytes and EOI; and no data before RST0. -/
theorem witness_EntropyDataEndsAtAMarker_walk :
    (let s := box .entropy [0x12, 0xFF, 0x00, 0xFF, 0xFF, 0xFF, 0xD9]
     s.readable s.rd.bp 7 ∧ s.inBytes s.rd.bp 7 = ([0x12, 0xFF] : List Byte).flatMap (fun b => if b = 0xFF then [0xFF#8, 0x00#8] else [b]) ++
       List.replicate 3 0xFF ++ [0xD9]) ∧
    (let s := box .entropy [0xFF, 0xD0]
     s.readable s.rd.bp 2 ∧ s.inBytes s.rd.bp 2 = List.replicate 1 0xFF ++ [0xD0]) := by decide +kernel

/-- Data to the end of the input, none at all, fill bytes to the end, and two 0xFF before 0x00. -/
theorem witness_EntropyDataEndsAtAMarker_errors :
    (let s := box .entropy [0x12]
     s.readable s.rd.bp 1 ∧ s.inBytes s.rd.bp 1 = [0x12] ∧ s.inLen = s.rd.bp + 1) ∧
    (box .entropy []).inLen = (box .entropy []).rd.bp + 0 ∧
    (let s := box .entropy [0x12, 0xFF]
     s.readable s.rd.bp 2 ∧ s.inBytes s.rd.bp 2 = [0x12] ++ List.replicate (0 + 1) 0xFF ∧ s.inLen = s.rd.bp + 2) ∧
    (let s := box .entropy [0xFF, 0xFF, 0x00]
     s.readable s.rd.bp 3 ∧ s.inBytes s.rd.bp 3 = List.replicate (1 + 1) 0xFF ++ [0x00]) ∧
    (box .entropy []).undisturbed ∧ (box .entropy []).script = [] ∧ (box .entropy []).sq.phase = .entropy := by decide +kernel

theorem witness_EntropyDataEndsAtAMarker_error_step :
    ∃ t, walkInterval (box .entropy []) = .error (.raise .formatError t) := ⟨box .entropy [], by rfl⟩

theorem witness_EntropyDataEndsAtAMarker_step :
    (∃ q t, (box .entropy [0x12, 0xFF, 0xD7]).script = [] ∧ (box .entropy [0x12, 0xFF, 0xD7]).sq.phase = .entropy ∧
      walkInterval (box .entropy [0x12, 0xFF, 0xD7]) = .ok (q, t) ∧ q = 0xD0 ||| (7 : BitVec 3).setWidth 8) ∧
    (∃ q t, walkInterval (box .entropy [0x12, 0xFF, 0xD8]) = .ok (q, t) ∧ (∀ m : BitVec 3, q ≠ 0xD0 ||| m.setWidth 8) ∧
      t.roomFor .layoutRecord) := by
  obtain ⟨q, t, h, hq⟩ := okIs_elim (m := walkInterval (box .entropy [0x12, 0xFF, 0xD7]))
    (p := fun q _ => decide (q = 0xD0 ||| (7 : BitVec 3).setWidth 8)) (by decide +kernel)
  obtain ⟨q', t', h', hq'⟩ := okIs_elim (m := walkInterval (box .entropy [0x12, 0xFF, 0xD8]))
    (p := fun q t => decide (∀ m : BitVec 3, q ≠ 0xD0 ||| m.setWidth 8) && decide (t.roomFor .layoutRecord)) (by decide +kernel)
  simp only [Bool.and_eq_true, decide_eq_true_eq] at hq hq'
  exact ⟨⟨q, t, rfl, rfl, h, hq⟩, ⟨q', t', h', hq'⟩⟩

theorem witness_StepRunsEntropyCodeAndCommands :
    (let s := State.opened (unitBox 0 0 63 0 zeroBlock [0xA0]) .seq 1 .ac
     s.script = [] ∧ s.sq.phase = .unit ∧ s.undisturbed ∧ s.sq.block = some ⟨.seq, ⟨0, 0, 0⟩, 1, .ac⟩ ∧
     ∃ sym t, decodeHuff (s.symbolTable ⟨.seq, ⟨0, 0, 0⟩, 1, .ac⟩) s = .ok (sym, t) ∧
       decodeInstr (OpenBlock.symbolSpace ⟨.seq, ⟨0, 0, 0⟩, 1, .ac⟩) [sym] = some .eob) ∧
    (let s := unitBox 10 1 63 0 zeroBlock []
     s.script = [] ∧ s.sq.phase = .unit ∧ s.sq.block = none ∧
     decodeInstr .sel [selOf s.fr.ft s.sc.ss s.sc.ah] = some (.ariAcFirst false)) ∧
    (let s := { State.reset with script := [.write 0xF0000000 4 7] }
     s.script = .write s.params.lpjBase 4 7 :: [] ∧ decodeInstr .ctrl (bytesLE 4 (7 : Word).toNat) = some (.encode true)) := by
  refine ⟨⟨rfl, rfl, rfl, rfl, ?_⟩, by decide +kernel, by decide +kernel⟩
  obtain ⟨sym, t, h, hp⟩ := okIs_elim (p := fun sym _ => decide (decodeInstr .symAc [sym] = some .eob))
    (m := decodeHuff (State.symbolTable (State.opened (unitBox 0 0 63 0 zeroBlock [0xA0]) .seq 1 .ac) ⟨.seq, ⟨0, 0, 0⟩, 1, .ac⟩)
      (State.opened (unitBox 0 0 63 0 zeroBlock [0xA0]) .seq 1 .ac)) (by decide +kernel)
  exact ⟨sym, t, h, of_decide_eq_true hp⟩

/-- A layout with one frame of one scan and one recorded table before the frame, one after it. -/
def replayBox (p : Phase) (auxPos : Nat) : State :=
  let s := State.withFrames (box p (List.replicate 40 0)) [⟨10, 5, [⟨20, []⟩]⟩]
  { s with
    arena := { s.arena with layout := { s.arena.layout with aux := [⟨2, .dqt⟩, ⟨14, .dri⟩, ⟨30, .exp⟩] } }
    sq := { s.sq with auxPos := auxPos } }

theorem witness_StepReplaysTheTables :
    ((replayBox .replaySof 0).script = [] ∧ (replayBox .replaySof 0).undisturbed ∧ (replayBox .replaySof 0).sq.phase = .replaySof ∧
      (replayBox .replaySof 0).frameRec = some ⟨10, 5, [⟨20, []⟩]⟩ ∧ ((5 : BitVec 4), Instr.sof5) ∈ sofMarkers ∧
      (replayBox .replaySof 0).arena.layout.aux[0]? = some ⟨2, .dqt⟩ ∧ 2 < 10) ∧
    ((replayBox .replaySof 1).arena.layout.aux[1]? = some ⟨14, .dri⟩ ∧ 10 ≤ 14) ∧
    ((replayBox .replaySos 1).scanRec = some ⟨20, []⟩ ∧ (replayBox .replaySos 1).arena.layout.aux[1]? = some ⟨14, .dri⟩ ∧ 14 < 20) ∧
    (replayBox .replaySos 3).arena.layout.aux[3]? = none := by decide +kernel

/-- One more entry; the last entry with one more unit; the last unit with a byte left, and with none left and an interval to come. -/
theorem witness_DriverAfterABlock :
    ((box .scan []).sq.phase ≠ .unit ∧ (State.opened (box .unit []) .seq 1 .ac).sq.block ≠ none) ∧
    (let s := unitBox 0 0 63 0 zeroBlock [1]
     let s2 : State := { s with sc := { s.sc with mcud := [⟨0, 0, 0⟩, ⟨0, 1, 0⟩] } }
     let s3 : State := { s with sc := { s.sc with nunits := 2, ni := 2 }, tb := { s.tb with ri := 1 } }
     s2.sq.phase = .unit ∧ s2.sq.block = none ∧ s2.sc.entry + 1 < s2.sc.mcud.length ∧
     (let s4 : State := { s3 with tb := { s.tb with ri := 2 } }
      s4.sc.mcud.length ≤ s4.sc.entry + 1 ∧ s4.sc.unit + 1 < s4.endUnit) ∧
     s3.endUnit ≤ s3.sc.unit + 1 ∧ s3.fr.ft.getLsbD 3 = false ∧ s3.rd.bp ≠ s3.rd.segEnd ∧ s3.sc.intv + 1 < s3.sc.ni ∧
     (let s5 : State := { s3 with rd := { s3.rd with bp := 1 } }
      s5.rd.bp = s5.rd.segEnd)) := by decide +kernel

/-- The last interval of an arithmetic scan with a byte left, ignored or rejected; a scan to come and none; an interval entered. -/
theorem witness_DriverAfterABlock_scanEnd :
    (let s := State.withFrames (unitBox 9 0 63 0 zeroBlock [1]) (frames 2)
     s.sq.phase = .unit ∧ s.sq.block = none ∧ s.sc.mcud.length ≤ s.sc.entry + 1 ∧ s.endUnit ≤ s.sc.unit + 1 ∧
     s.fr.ft.getLsbD 3 = true ∧ s.params.arithTrailing = .ignore ∧ s.sc.ni ≤ s.sc.intv + 1 ∧
     (let r : State := { s with params := { s.params with arithTrailing := .reject } }
      r.params.arithTrailing ≠ .ignore ∧ ¬ r.rd.segEnd ≤ r.rd.bp) ∧
     s.frameRec = some ⟨2, 0, List.replicate 2 ⟨20, [⟨30, 1⟩]⟩⟩ ∧ s.sq.scanIx + 1 < 2 ∧
     2 ≤ ({ s with sq := { s.sq with scanIx := 1 } } : State).sq.scanIx + 1) ∧
    (let s := State.withFrames (box .interval [1]) (frames 1)
     s.script = [] ∧ s.undisturbed ∧ s.sq.phase = .interval ∧ s.scanRec = some ⟨20, [⟨30, 1⟩]⟩ ∧
     ([⟨30, 1⟩] : List Interval)[s.sc.intv]? = some ⟨30, 1⟩) := by decide +kernel

/-- R47, R48: an interval of an arithmetic frame begins with BITCNT 0, one of a Huffman frame with the bins 0. -/
theorem test_enterInterval :
    (let s : State := { unitBox 9 0 63 0 zeroBlock [1] with rd := ⟨0, 0, 0x80, 5⟩ }
     (s.enterInterval ⟨30, 1⟩).rd = ⟨30, 31, 0, 0⟩) ∧
    (let s := unitBox 0 0 63 0 zeroBlock [1]
     (State.enterInterval { s with st := s.st.setBin (.dc 0 0) 0x85 } ⟨30, 1⟩).st.binByte (.dc 0 0) = 0) := by decide +kernel

/-! ### Witnesses: the host's side and errors -/

theorem witness_HardwareReset :
    ({ box .scan [1] with script := [.reset] } : State).mem.wf = true ∧ (box .scan [1]).busy = true ∧ State.reset.busy = false ∧
    (box .scan [1]).inOutput 0x203F = true ∧ (box .scan [1]).inArena 0x12FFF = true ∧ (box .scan [1]).inOutput 0x2040 = false ∧
    (box .scan [1]).inArena 0x13000 = false := by decide +kernel

theorem witness_BusyWritesAreIgnored :
    (box .scan []).regOffset 0xF000002C = some 44 ∧ 44 % 4 = 0 ∧ (box .scan []).busy = true ∧ 44 / 4 ∈ [0, 3, 4, 5, 6, 7, 8, 9, 10, 11] ∧
    (box .scan []).regOffset 0xF000003F = some 63 ∧ (box .scan []).regOffset 0xF0000040 = none := by decide +kernel

theorem witness_RegisterAccesses :
    State.reset.regOffset 0xF0000002 = some 2 ∧ 2 % 4 ≠ 0 ∧ State.reset.regOffset 0xF0000000 = some 0 ∧ 2 ≠ 4 ∧
    State.reset.regOffset 0xF0000004 = some 4 ∧ State.reset.regOffset 0xF000003C = some 60 ∧
    60 ∈ [8, 48, 52, 56, 60] ∧ State.reset.busy = false ∧ State.reset.regOffset 0xF000000C = some 12 ∧
    State.reset.regOffset 0xF000002C = some 44 ∧ 12 ∈ [12, 16, 20, 24, 28, 32, 36, 40, 44] ∧
    44 ∈ [12, 16, 20, 24, 28, 32, 36, 40, 44] := by decide +kernel

theorem witness_StartAcceptance :
    (box .scan []).busy = true ∧ State.reset.busy = false ∧ (1 : Word).getLsbD 0 = true ∧ (0xFFFFFFFE : Word).getLsbD 0 = false ∧
    State.reset.params.lpjBase = 0xF0000000 := by decide +kernel

/-- Idle with the arena apart from the output, and over its last byte. -/
theorem witness_StartEffects :
    State.reset.busy = false ∧
    (let s : State := { box .idle [1] with regs := { (box .idle [1]).regs with status := 0 } }
     let t : State := { s with regs := { s.regs with scrBase := 0x203F } }
     s.busy = false ∧ s.inArena 0x203F = false ∧ s.inOutput 0x203F = true ∧ t.inArena 0x203F = true ∧ t.inOutput 0x203F = true ∧
     t.inOutput 0x2040 = false) := by decide +kernel

theorem witness_SuccessAndFailure :
    (raise .outOfMemory : Act Unit) State.reset = .error (.raise .outOfMemory State.reset) ∧
    (let s := box .scan [1]
     s.mem.wf = true ∧ s.op = false ∧ ({ s with regs := { s.regs with ctrl := 2 } } : State).op = true ∧
     s.inOutput 0x203F = true ∧ s.arena.used = 0 ∧ (s.allocated .layoutRecord).arena.used ≠ 0 ∧
     (s.allocated .layoutRecord).inArena 0x3000 = true ∧ s.inOutput 256 = false ∧ s.inArena 256 = false) :=
  ⟨rfl, by decide +kernel⟩

/-! ### Witnesses: markers of the layout scan -/

theorem witness_IllegalAndRestartMarkers :
    isReserved (.jpg12 1) = true ∧ isReserved (.res80 63) = true ∧ (box .scan []).sq.phase ≠ .soi ∧
    (box .scan []).sq.phase ≠ .entropy := by decide +kernel

theorem witness_IllegalAndRestartMarkers_restart :
    (box .entropy []).sq.phase = .entropy ∧ (box .entropy []).roomFor .layoutRecord ∧ (0 : BitVec 3) = (box .entropy []).sc.expectRst ∧
    (7 : BitVec 3) ≠ (box .entropy []).sc.expectRst := by decide +kernel

/-- A SOF segment of `nf` components from its length field on. -/
def sofBytes (lx nf : Byte) : List Byte :=
  [0, lx, 8, 0, 1, 0, 1, nf] ++ ([[1, 0x11, 0], [2, 0x11, 0], [3, 0x11, 0], [4, 0x11, 0]] ++ [[5, 0x11, 0]] : List (List Byte)).flatten.take (3 * nf.toNat)

theorem witness_SofRecordsAFrame_refused :
    ((0 : BitVec 4), Instr.sof0) ∈ sofMarkers ∧ ((15 : BitVec 4), Instr.sof15) ∈ sofMarkers ∧ (box .scan []).replaying = false ∧
    (State.withFrames (box .scan []) (frames 1)).arena.layout.frames ≠ [] ∧ (box .scan []).hi.dhp = none ∧
    (15 : BitVec 4).getLsbD 2 = true := by decide +kernel

theorem witness_SofRecordsAFrame_recorded :
    (let s := box .scan (sofBytes 11 1)
     s.segmentAt 11 ∧ s.hi.dhp = none ∧ s.arena.layout.frames = [] ∧ (0 : BitVec 4).getLsbD 2 = false ∧
     (s.inByte (s.rd.bp + 7)).toNat = 1 ∧ s.roomFor .layoutRecord) ∧
    (let s := State.withFrames (State.withDhp (box .scan (sofBytes 20 4))) (frames 1)
     s.segmentAt 20 ∧ s.hi.dhp ≠ none ∧ (s.inByte (s.rd.bp + 7)).toNat = 4 ∧ s.roomFor .layoutRecord) := by decide +kernel

theorem witness_SofRecordsAFrame_lengths :
    ((box .scan (sofBytes 7 1)).segmentAt 7 ∧ 7 < 8) ∧
    ((box .scan (sofBytes 8 0)).segmentAt 8 ∧ ((box .scan (sofBytes 8 0)).inByte 7).toNat < 1) ∧
    ((box .scan (sofBytes 23 5)).segmentAt 23 ∧ 4 < ((box .scan (sofBytes 23 5)).inByte 7).toNat) ∧
    ((box .scan (sofBytes 12 2)).segmentAt 12 ∧ 12 ≠ 8 + 3 * ((box .scan (sofBytes 12 2)).inByte 7).toNat) := by decide +kernel

/-- A SOS segment of `ns` components from its length field on. -/
def sosBytes (lx ns : Byte) : List Byte :=
  [0, lx, ns] ++ ([[1, 0], [2, 0], [3, 0], [4, 0]] ++ [[5, 0]] : List (List Byte)).flatten.take (2 * ns.toNat) ++ [0, 63, 0]

theorem witness_SosOpensAScan :
    (box .scan []).replaying = false ∧ (box .scan []).arena.layout.frames = [] ∧
    (let s := State.withFrames (box .scan (sosBytes 8 1)) (frames 0)
     s.segmentAt 8 ∧ s.arena.layout.frames ≠ [] ∧ (s.inByte (s.rd.bp + 2)).toNat = 1 ∧ s.roomFor .layoutRecord) ∧
    (let s := State.withFrames (box .scan (sosBytes 14 4)) (frames 0)
     s.segmentAt 14 ∧ (s.inByte (s.rd.bp + 2)).toNat = 4) ∧
    ((box .scan (sosBytes 2 1)).segmentAt 2 ∧ (box .scan (sosBytes 6 0)).segmentAt 6 ∧ (box .scan (sosBytes 16 5)).segmentAt 16 ∧
      ((box .scan (sosBytes 6 0)).inByte 2).toNat < 1 ∧ 4 < ((box .scan (sosBytes 16 5)).inByte 2).toNat) := by decide +kernel

theorem witness_DhpAndEoi :
    (State.withDhp (box .scan [])).hi.dhp ≠ none ∧ (State.withFrames (box .scan []) (frames 0)).arena.layout.frames ≠ [] ∧
    (let s := box .scan (sofBytes 8 0)
     s.segmentAt 8 ∧ s.hi.dhp = none ∧ s.arena.layout.frames = [] ∧ 8 = 8 + 3 * (s.inByte (s.rd.bp + 7)).toNat) ∧
    (let s := box .scan (sofBytes 20 4)
     s.segmentAt 20 ∧ 20 = 8 + 3 * (s.inByte (s.rd.bp + 7)).toNat) ∧
    ((box .scan (sofBytes 7 1)).segmentAt 7 ∧ (box .scan (sofBytes 12 2)).segmentAt 12 ∧
      12 ≠ 8 + 3 * ((box .scan (sofBytes 12 2)).inByte 7).toNat) := by decide +kernel

theorem witness_DhpAndEoi_eoi :
    (box .scan []).arena.layout.frames = [] ∧
    (∃ f ∈ (State.withFrames (box .scan []) (frames 0)).arena.layout.frames, f.scans = []) ∧
    (let s := State.withFrames (box .scan []) (frames 1)
     let t : State := { s with arena := { s.arena with layout := { s.arena.layout with aux := [⟨90, .exp⟩] } } }
     s.arena.layout.frames ≠ [] ∧ (∀ f ∈ s.arena.layout.frames, f.scans ≠ []) ∧
     ¬ (s.hi.dhp = none ∧ ∃ a ∈ s.arena.layout.aux, a.marker = .exp) ∧
     (t.hi.dhp = none ∧ ∃ a ∈ t.arena.layout.aux, a.marker = .exp) ∧ (State.withDhp t).hi.dhp ≠ none) := by decide +kernel

theorem witness_ApplicationAndSkippedSegments :
    (let s := box .scan ([0, 7] ++ jfifIdent)
     s.segmentAt 7 ∧ s.appHit 7 jfifIdent s.arena.layout.jfifOff) ∧
    (let s := box .scan ([0, 8] ++ exifIdent)
     s.segmentAt 8 ∧ s.appHit 8 exifIdent s.arena.layout.exifOff) ∧
    (let s := box .scan ([0, 7] ++ adobeIdent)
     s.segmentAt 7 ∧ s.appHit 7 adobeIdent s.arena.layout.adobeOff) ∧
    (let s := box .scan ([0, 14] ++ adobeIdent ++ [0, 100, 0, 0, 0, 0, 1])
     s.segmentAt 14 ∧ s.appHit 14 adobeIdent s.arena.layout.adobeOff) := by decide +kernel

theorem witness_ApplicationAndSkippedSegments_skipped :
    ((box .scan [0, 2]).segmentAt 2 ∧ isSkipped (.app12 1) = true ∧ isSkipped .com = true) ∧
    (let s := box .scan [0, 3, 0x4A]
     s.segmentAt 3 ∧ (Instr.app0, jfifIdent, none) ∈ appMarkers s.arena.layout ∧ ¬ s.appHit 3 jfifIdent none) ∧
    (let s := State.withFrames (box .scan ([0, 8] ++ exifIdent)) (frames 1)
     s.segmentAt 8 ∧ ¬ s.appHit 8 exifIdent none) ∧
    ((box .scan [0, 1]).readable 0 2 ∧ (box .scan [0, 1]).inWord 0 < 2) ∧
    ((box .scan [0, 3]).readable 0 2 ∧ (box .scan [0, 3]).inLen < 0 + (box .scan [0, 3]).inWord 0) := by decide +kernel

theorem witness_TableMarkersAreRecorded :
    AuxKind.dac ∈ auxMarkers ∧ AuxKind.exp ∈ auxMarkers ∧ (box .scan [0, 2]).replaying = false ∧ (box .scan [0, 2]).segmentAt 2 ∧
    (box .scan [0, 2]).roomFor .layoutRecord := by decide +kernel

/-- A DNL of the wrong length, before any frame, behind a frame with lines, and, in a frame without, where its first scan ended and
elsewhere. -/
theorem witness_TableMarkersAreRecorded_dnl :
    AuxKind.dnl ∈ auxMarkers ∧ ((box .scan [0, 5, 0, 1, 0]).segmentAt 5 ∧ 5 ≠ 4) ∧ (box .scan [0, 4, 0, 1]).arena.layout.frames = [] ∧
    (let s := State.withFrames (box .scan ([0, 4, 0, 1] ++ [0, 0, 0] ++ [0, 1])) [⟨2, 0, [⟨20, []⟩]⟩]
     s.segmentAt 4 ∧ s.roomFor .layoutRecord ∧ s.arena.layout.frames.getLast? = some ⟨2, 0, [⟨20, []⟩]⟩ ∧ s.readable (2 + 5) 2 ∧
     s.inWord (2 + 5) ≠ 0) ∧
    (let s := State.withFrames (box .scan ([0, 4, 0, 1] ++ [0, 0, 0] ++ [0, 0])) [⟨2, 0, [⟨20, []⟩]⟩]
     s.inWord (2 + 5) = 0 ∧ s.sq.moff = s.sq.scanEnd ∧ ({ s with sq := { s.sq with moff := 1 } } : State).sq.moff ≠ s.sq.scanEnd) := by
  decide +kernel

/-! ### Witnesses: markers replayed -/

theorem witness_DriDnlExpReplayed :
    ((box .replaySof [0, 4, 0, 1]).replaying = true ∧ (box .replaySos [0, 4, 0, 1]).replaying = true ∧
      (box .replaySof [0, 4, 0, 1]).segmentAt 4 ∧ (box .replaySof [0, 3, 0]).segmentAt 3) ∧
    (let s := State.withDhp (box .replaySof [0, 3, 0x11])
     s.segmentAt 3 ∧ s.hi.dhp ≠ none ∧ (s.inByte (s.rd.bp + 2)).toNat / 16 ≤ 1 ∧ (s.inByte (s.rd.bp + 2)).toNat % 16 ≤ 1) ∧
    (let s := State.withDhp (box .replaySof [0, 3, 0x20])
     s.segmentAt 3 ∧ 1 < (s.inByte (s.rd.bp + 2)).toNat / 16) := by decide +kernel

theorem witness_DacSetsTheConditioning :
    ((box .replaySof [0, 3, 0]).replaying = true ∧ (box .replaySof [0, 3, 0]).segmentAt 3 ∧ 3 % 2 = 1) ∧
    (let s := box .replaySof [0, 6, 0x03, 0xF0, 0x13, 0x3F]
     s.segmentAt 6 ∧ s.payload 6 = [((0x03 : Byte), (0xF0 : Byte)), (0x13, 0x3F)].flatMap (fun p => [p.1, p.2]) ∧
     (s.tb.conditions [(0x03, 0xF0), (0x13, 0x3F)]).isSome = true) ∧
    (let s := box .replaySof [0, 4, 0x10, 0x40]
     s.segmentAt 4 ∧ s.payload 4 = [((0x10 : Byte), (0x40 : Byte))].flatMap (fun p => [p.1, p.2]) ∧
     s.tb.conditions [(0x10, 0x40)] = none) := by decide +kernel

/-- A definition of slot 3 with 8-bit entries. -/
def quantDefs : List QuantDef := [⟨false, 3, Vector.replicate 64 255⟩]

/-- Behind one definition: Pq = 2, Tq = 4, and one entry too few. -/
theorem witness_DqtDefinesTables_errors :
    (∀ b ∈ ([0x20, 0x04] : List Byte), let s := box .replaySof ([0, 68] ++ quantDefs.flatMap QuantDef.bytes ++ [b])
     s.replaying = true ∧ s.segmentAt 68 ∧ s.payload 68 = quantDefs.flatMap QuantDef.bytes ++ [b] ∧
     (1 < b.toNat / 16 ∨ 3 < b.toNat % 16)) ∧
    (let s := box .replaySof ([0, 66, 0x00] ++ List.replicate 63 1)
     s.segmentAt 66 ∧ s.payload 66 = 0x00 :: List.replicate 63 1 ∧
     (List.replicate 63 (1 : Byte)).length < 64 * ((0x00 : Byte).toNat / 16 + 1)) := by decide +kernel

theorem witness_DqtDefinesTables :
    (let s := box .replaySof ([0, 67] ++ quantDefs.flatMap QuantDef.bytes)
     s.replaying = true ∧ s.segmentAt 67 ∧ s.payload 67 = quantDefs.flatMap QuantDef.bytes) ∧
    (∀ d ∈ quantDefs, d.ok = true) ∧ QuantDef.ok ⟨true, 0, Vector.replicate 64 0xFFFF⟩ = true ∧ ((box .replaySof [0, 2]).segmentAt 2 ∧ (box .replaySof [0, 2]).payload 2 = []) := by
  decide +kernel

/-- Two definitions of one slot: one code of one bit, then none; the second supersedes the first. -/
def huffDefs : List HuffDef :=
  [⟨true, 3, vset (Vector.replicate 16 0) 0 1, [0x05]⟩, ⟨true, 3, vset (Vector.replicate 16 0) 15 2, [0x05, 0x06]⟩]

theorem witness_DhtDefinesTables :
    (let s := box .replaySof ([0, 39] ++ huffDefs.flatMap HuffDef.bytes)
     s.replaying = true ∧ s.segmentAt 39 ∧ s.payload 39 = huffDefs.flatMap HuffDef.bytes ∧
     (State.defineHuffs huffDefs s).isSome = true) ∧
    (∀ d ∈ huffDefs, d.ok = true) := by decide +kernel

/-- Tc = 2, Th = 4, 15 counts, 257 codes, a symbol too few, and an overfull code of two bits. -/
theorem witness_DhtDefinesTables_errors :
    (let s := box .replaySof ([0, 3, 0x20])
     s.segmentAt 3 ∧ s.payload 3 = [0x20] ∧ State.defineHuffs [] s = some s ∧ 1 < (0x20 : Byte).toNat / 16 ∧
     3 < (0x04 : Byte).toNat % 16) ∧
    (let s := box .replaySof ([0, 18, 0x00] ++ List.replicate 15 0)
     s.segmentAt 18 ∧ s.payload 18 = 0x00 :: List.replicate 15 0) ∧
    256 < (((List.replicate 14 0 ++ [255, 2] : List Byte).take 16).map (·.toNat)).sum ∧
    (let rest : List Byte := List.replicate 15 0 ++ [1]
     rest.length < 16 + ((rest.take 16).map (·.toNat)).sum) ∧
    (let counts : List Nat := 0 :: 5 :: List.replicate 14 0
     2 ^ 16 < ((List.range 16).map fun k => lget counts k 0 * 2 ^ (15 - k)).sum) :=
  ⟨⟨by decide +kernel, by decide +kernel, rfl, by decide, by decide⟩, by decide +kernel, by decide, by decide, by decide⟩

theorem witness_SofDecodesAFrame :
    (let s := State.withFrames (box .replaySof (sofBytes 11 1)) (frames 1)
     let kind := Config.AllocKind.planes 0 1 1 1 [(1, 1)]
     resolveLines 1 s = .ok (1, s) ∧
     ((0 : BitVec 4), Instr.sof0) ∈ sofMarkers ∧ s.replaying = true ∧ s.segmentAt 11 ∧ precisionOk 0 8 = true ∧
     frameCompsOk [(1, 1, 1, 0)] = true ∧ allocSize s.params kind < 2 ^ 32 ∧ s.roomFor kind ∧ s.hi.dhp = none ∧ s.sq.frameIx = 0 ∧
     transferSelect s.params [1] false false none = some .gray ∧ transferSelect s.params [7, 8, 9] false false none = none) :=
  ⟨rfl, by decide +kernel⟩

/-- A wrong length, X = 0, P = 9, H = 5, a lossless frame not admitted; a frame without lines; 2^31 bytes of pixels times 2; a frame
larger than its image. -/
theorem witness_SofDecodesAFrame_errors :
    ((box .replaySof (sofBytes 12 2)).segmentAt 12 ∧ 12 ≠ 8 + 3 * 2) ∧ precisionOk 0 9 = false ∧ precisionOk 3 1 = false ∧
    frameCompsOk [(1, 5, 1, 0)] = false ∧ frameCompsOk [(1, 1, 1, 4)] = false ∧ frameCompsOk [(1, 1, 1, 0), (1, 1, 1, 0)] = false ∧
    sofLossless 3 = true ∧ ({ Params.reset with admitLossless := false } : Config.Params).admitLossless ≠ true ∧
    (let s := State.withFrames (box .replaySof (sofBytes 11 1)) (frames 1)
     resolveLines 0 s = .error (.raise .formatError s) ∧
     hierFrameOk ⟨8, 2, 4, [(1, 1, 1)]⟩ [] (s.openFrame 0 ⟨8, 3, 4, [(1, 1, 1, 0)]⟩ 3).fr = false ∧
     hierFrameOk ⟨8, 2, 4, [(1, 1, 1)]⟩ [] (s.openFrame 0 ⟨8, 2, 4, [(1, 1, 1, 0)]⟩ 2).fr = true) ∧
    2 ^ 32 ≤ 8 * 32768 * 16384 ∧ 8 * 32767 * 16384 < 2 ^ 32 :=
  ⟨by decide +kernel, by decide, by decide, by decide, by decide, by decide, by decide, by decide,
    ⟨rfl, by decide +kernel, by decide +kernel⟩, by decide, by decide⟩

/-- One byte of limit, an arena of no bytes; and a size of 0, which ALLOC_BYTES at its reset value never gives. -/
theorem witness_SofDecodesAFrame_allocation (n : Nat) :
    let kind := Config.AllocKind.planes 0 1 1 1 [(1, 1)]
    (Config.allocOther n kind = 0 → allocSize { Params.reset with allocBytes := .other n } kind = 0) ∧
    (let s := State.withFrames (box .replaySof (sofBytes 11 1)) (frames 1)
     let limit : State := { s with regs := { s.regs with sizeLimit := 1 } }
     let none' : State := { s with regs := { s.regs with scrLen := 0 } }
     0 < allocSize s.params kind ∧ limit.regs.sizeLimit ≠ 0 ∧ limit.regs.sizeLimit.toNat < allocSize s.params kind ∧
     none'.regs.sizeLimit = 0 ∧ none'.regs.scrLen.toNat < none'.arena.used + allocSize s.params kind) :=
  ⟨fun h => h, by decide +kernel⟩

/-- A frame without lines that a DNL behind its first scan and before the next frame gives, of the right and of the wrong length, and
with NL = 0; and DNLs that do not. -/
theorem witness_FrameRules :
    let s (lx nl : Byte) : State :=
      let s := State.withFrames (box .replaySof (List.replicate 32 0 ++ [0, lx, 0, nl])) [⟨2, 0, [⟨20, []⟩]⟩, ⟨60, 0, [⟨70, []⟩]⟩]
      { s with arena := { s.arena with layout := { s.arena.layout with aux := [⟨10, .dnl⟩, ⟨30, .dnl⟩, ⟨80, .dnl⟩] } } }
    (∀ lx nl, (s lx nl).frameRec = some ⟨2, 0, [⟨20, []⟩]⟩ ∧ (s lx nl).arena.layout.aux[1]? = some ⟨30, .dnl⟩ ∧
      (∀ g, (s lx nl).arena.layout.frames[(s lx nl).sq.frameIx + 1]? = some g → 30 < g.sofOff ∧ ¬ 80 < g.sofOff) ∧
      ¬ 20 < (⟨10, .dnl⟩ : AuxRec).off) ∧
    ((s 4 5).readable (30 + 2) 4 ∧ (s 4 5).inWord (30 + 2) = 4 ∧ (s 4 5).inWord (30 + 4) = 5) ∧
    ((s 5 1).readable (30 + 2) 4 ∧ (s 5 1).inWord (30 + 2) ≠ 4) ∧ ((s 4 0).readable (30 + 2) 4 ∧ (s 4 0).inWord (30 + 4) = 0) ∧
    ((9 : BitVec 4), Instr.sof9) ∈ sofMarkers ∧ Params.reset.transfer = .reference :=
  ⟨fun _ _ => ⟨rfl, rfl, fun g hg => by cases hg; decide, by decide⟩, by decide +kernel, by decide +kernel, by decide +kernel,
    by decide, rfl⟩

theorem witness_FrameHeaderFields :
    (let h : FrameHeader := ⟨16, 0, 65535, [(1, 4, 1, 0), (2, 1, 4, 3), (3, 2, 2, 1), (4, 1, 1, 2)]⟩
     1 ≤ h.comps.length ∧ h.comps.length ≤ 4 ∧ h.p ≤ 16 ∧ 1 ≤ h.x ∧ h.x < 65536 ∧ frameCompsOk h.comps = true) ∧
    (let h : FrameHeader := ⟨8, 1, 1, [(0, 1, 1, 0)]⟩
     1 ≤ h.comps.length ∧ 1 ≤ h.x ∧ frameCompsOk h.comps = true) ∧ (1 ≤ 65535 ∧ 65535 < 65536) := by decide +kernel

/-- A frame of one component whose scan header asks for SE = 62. -/
theorem witness_ScanParameters :
    ∃ u, (let s := unitBox 0 0 0 0 zeroBlock [0, 8, 1, 1, 0, 0, 62, 0]
          ({ s with sq := { s.sq with phase := .replaySos } } : State).replaying = true ∧
          parseScanHeader { s with sq := { s.sq with phase := .replaySos } } = .ok ((), u)) ∧
      scanParamsOk u.fr.ft u.fr.p.toNat u.sc.ns.toNat u.sc.ss.toNat u.sc.se.toNat u.sc.ah.toNat u.sc.al.toNat = false := by
  obtain ⟨_, u, h, hp⟩ := okIs_elim (m := parseScanHeader (let s := unitBox 0 0 0 0 zeroBlock [0, 8, 1, 1, 0, 0, 62, 0]
      { s with sq := { s.sq with phase := .replaySos } }))
    (p := fun _ u => !scanParamsOk u.fr.ft u.fr.p.toNat u.sc.ns.toNat u.sc.ss.toNat u.sc.se.toNat u.sc.ah.toNat u.sc.al.toNat)
    (by decide +kernel)
  exact ⟨u, ⟨by decide +kernel, h⟩, by simpa using hp⟩

/-- A scan header of one component with table selectors 3 and 2; and its errors: the length of two components, Ss = 64, a component that
the frame has not. -/
theorem witness_ScanParameters_header :
    (let s := unitBox 0 0 0 0 zeroBlock [0, 8, 1, 1, 0x32, 0, 63, 0]
     s.segmentAt 8 ∧ s.fr.nf.toNat ≤ 4 ∧ s.fr.ids.Nodup ∧ (s.inByte 2).toNat = 1 ∧ (s.fr.compAt 0).id = s.inByte 3 ∧
     (s.inByte 4).toNat / 16 ≤ 3 ∧ (s.inByte 4).toNat % 16 ≤ 3 ∧ (s.inByte 6).toNat ≤ 63) ∧
    ((unitBox 0 0 0 0 zeroBlock [0, 8, 2, 1, 0, 0, 63, 0]).segmentAt 8 ∧ 8 ≠ 6 + 2 * 2) ∧
    (let s := unitBox 0 0 0 0 zeroBlock [0, 8, 1, 2, 0, 64, 63, 0]
     s.segmentAt 8 ∧ 63 < (s.inByte 5).toNat ∧ (s.fr.compAt 0).id ≠ s.inByte 3) := by decide +kernel

/-- A component with and without its tables, at its first scan and later; the reference tables needed and not; a scan that starts, and
one whose number of intervals is wrong. -/
theorem witness_ScanStart :
    (let s := unitBox 0 0 63 0 zeroBlock []
     let t : State := { s with tb := { s.tb with qt := vset s.tb.qt 0 (some (Vector.replicate 64 1)) } }
     s.fr.ft.getLsbD 3 = false ∧ vget s.tb.qt (s.fr.compAt 0).tq.toNat none = none ∧ vget t.tb.qt 0 none ≠ none ∧
     vget t.arena.dcTables (t.fr.compAt 0).td.toNat none ≠ none ∧ vget t.arena.acTables (t.fr.compAt 0).ta.toNat none ≠ none ∧
     vget (box .unit []).arena.dcTables 0 none = none ∧ vget s.fr.seen 0 false = false) ∧
    (let s := box .replaySos []
     s.tb.defaultHt = false ∧ s.fr.ft.getLsbD 3 = false ∧ s.arena.layout.aux = [] ∧
     okIs (installReference s) (fun _ t => t.tb.defaultHt) = true) ∧
    (let s0 := State.withFrames (unitBox 0 0 0 0 zeroBlock [0, 8, 1, 1, 0, 0, 63, 0]) (frames 1)
     let s : State := { s0 with
       tb := { s0.tb with qt := vset s0.tb.qt 0 (some (Vector.replicate 64 1)) }, sq := { s0.sq with phase := .replaySos } }
     s.replaying = true ∧
     okIs (parseScanHeader s) (fun _ u =>
       scanParamsOk u.fr.ft u.fr.p.toNat u.sc.ns.toNat u.sc.ss.toNat u.sc.se.toNat u.sc.ah.toNat u.sc.al.toNat &&
       okIs (forComps coverComp u.sc.comps u) fun _ v => okIs (installReference v) fun _ w =>
         okIs (forComps claimComp u.sc.comps w) fun _ z => (z.scanRec.map (·.intervals.length)) == some 1 && z.tb.ri == 0) =
       true) := by decide +kernel

/-- A first scan of the band 1..63 after DC; the same band again at bit 1; a lossless component new and seen. -/
theorem witness_CoverageRule :
    (let s : State := unitBox 2 1 63 1 zeroBlock []
     let dc : State := { s with tb := { s.tb with cover := coverSet s.tb.cover 0 0 0 1 } }
     let all : State := { s with
       tb := { s.tb with cover := coverSet dc.tb.cover 0 1 63 2 }, sc := { s.sc with ah := 2 } }
     s.fr.isLossless = false ∧
     (∀ k, 1 ≤ k → k ≤ 63 → coverAt dc.tb.cover 0 k = none ∧ coverAt dc.tb.cover 0 0 ≠ none) ∧
     (∀ k, 1 ≤ k → k ≤ 63 → coverAt all.tb.cover 0 k = some all.sc.ah.toNat ∧ coverAt all.tb.cover 0 0 ≠ none) ∧
     coverAt s.tb.cover 0 0 = none) ∧
    ((losslessBox 3 1 0 [] []).fr.isLossless = true ∧ vget (losslessBox 3 1 0 [] []).fr.seen 3 true = false ∧
      vget (vset (losslessBox 3 1 0 [] []).fr.seen 3 true) 3 false = true) := by
  refine ⟨⟨by decide +kernel, ?_, ?_, by decide +kernel⟩, by decide +kernel⟩
  · intro k h1 h2
    have : ∀ k < 64, 1 ≤ k → coverAt (coverSet Tables.init.cover 0 0 0 1) 0 k = none ∧
        coverAt (coverSet Tables.init.cover 0 0 0 1) 0 0 ≠ none := by decide +kernel
    exact this k (by omega) h1
  · intro k h1 h2
    have : ∀ k < 64, 1 ≤ k → coverAt (coverSet (coverSet Tables.init.cover 0 0 0 1) 0 1 63 2) 0 k = some 2 ∧
        coverAt (coverSet (coverSet Tables.init.cover 0 0 0 1) 0 1 63 2) 0 0 ≠ none := by decide +kernel
    exact this k (by omega) h1

theorem witness_IntervalsPartitionTheUnits :
    4 < ({ State.reset with sc := { State.reset.sc with nunits := 5 }, tb := { State.reset.tb with ri := 2 } } : State).sc.nunits ∧
    intervalCount 2 5 = 3 ∧ intervalCount 0 5 = 1 := by decide +kernel

/-- An interleaved scan of two components, 2x2 and 1x1, of 17 x 9 samples, at its last unit; and a scan of the first alone. -/
theorem witness_BlocksLieInTheirPlane :
    (let s := unitBox 0 0 63 0 zeroBlock []
     let fr : Frame := { s.fr with
       x := 17, y := 9, nf := 2, hmax := 2, vmax := 2, comp := #v[⟨1, 0, 0, 0, 2, 2⟩, ⟨2, 0, 0, 0, 1, 1⟩, ⟨0, 0, 0, 0, 0, 0⟩, ⟨0, 0, 0, 0, 0, 0⟩] }
     let two : State := { s with fr := fr, sc := { s.sc with ns := 2, sc := #v[0, 1, 0, 0], unit := 1 } }
     let one : State := { s with fr := fr, sc := { s.sc with ns := 1, unit := 5 } }
     two.fr.isLossless = false ∧ 1 ≤ two.fr.hmax.toNat ∧ 1 ≤ two.fr.vmax.toNat ∧ (⟨0, 1, 1⟩ : McuEntry) ∈ two.mcuEntries ∧
     two.sc.unit < two.unitCount ∧ (⟨0, 0, 0⟩ : McuEntry) ∈ one.mcuEntries ∧ one.sc.unit < one.unitCount) := by decide +kernel

/-! ### Witnesses: the entropy decoders -/

theorem witness_ExtendIsTheCategoryCode :
    (1 ≤ 1 ∧ 1 ≤ 15 ∧ 0 < 2 ^ 1) ∧ (32767 < 2 ^ 15) ∧ (-(2 ^ 15 - 1 : Int) ≤ -32767 ∧ (-32767 : Int) ≤ -(2 : Int) ^ 14) ∧
    ((2 : Int) ^ 0 ≤ 1 ∧ (1 : Int) ≤ 2 ^ 1 - 1) := by decide

theorem witness_ByteReaders :
    ((box .unit []).rd.bitCnt = 0 ∧ (box .unit []).rd.segEnd ≤ (box .unit []).rd.bp) ∧
    ((box .unit [0xFF]).rd.bp < (box .unit [0xFF]).rd.segEnd ∧ (box .unit [0xFF]).readable (box .unit [0xFF]).rd.bp 1) ∧
    ({ box .unit [] with rd := ⟨0, 0, 0x80, 8⟩ } : State).rd.bitCnt ≠ 0 := by decide +kernel

theorem witness_ReceiveAndDecodeHuff :
    8 ≤ ({ box .unit [] with rd := ⟨0, 0, 0x80, 8⟩ } : State).rd.bitCnt ∧
    ∃ v w t u, receive 3 (box .unit [0xA5]) = .ok (v, t) ∧ receive 5 t = .ok (w, u) := by
  refine ⟨by decide +kernel, ?_⟩
  obtain ⟨v, t, h, hp⟩ := okIs_elim (m := receive 3 (box .unit [0xA5])) (p := fun _ t => okIs (receive 5 t) fun _ _ => true)
    (by decide +kernel)
  obtain ⟨w, u, h', -⟩ := okIs_elim hp
  exact ⟨v, w, t, u, h, h'⟩

theorem witness_BuildTriePrefixFree : (buildTrie refAcLumaBits refAcLumaVals).isSome = true ∧ refAcLumaBits.length = 16 := by
  decide +kernel

/-- The 16-bit codeword of RS = 0x1A of the reference AC luminance table. -/
theorem witness_ReceiveAndDecodeHuff_codeword :
    ∃ codes c t, buildTrie refAcLumaBits refAcLumaVals = some codes ∧ refAcLumaBits.length = 16 ∧ c ∈ codes ∧ c.len = 16 ∧
      receive c.len (box .unit [0xFF, 0x00, 0x86]) = .ok (c.code, t) := by
  obtain ⟨v, t, h, hp⟩ := okIs_elim (m := receive 16 (box .unit [0xFF, 0x00, 0x86]))
    (p := fun v _ => ((buildTrie refAcLumaBits refAcLumaVals).getD []).any fun c => decide (c = ⟨v, 16, c.sym⟩)) (by decide +kernel)
  obtain ⟨c, hc, he⟩ := List.any_eq_true.mp hp
  refine ⟨(buildTrie refAcLumaBits refAcLumaVals).getD [], c, t, by decide +kernel, by decide, hc, ?_, ?_⟩
  · rw [of_decide_eq_true he]
  · have hl : c.len = 16 := by rw [of_decide_eq_true he]
    have hv : c.code = v := by rw [of_decide_eq_true he]
    rw [hl, hv]; exact h

theorem witness_DcCategorySymbol :
    (let s := State.opened (unitBox 2 0 0 13 (blockOf [1]) [0xFF, 0x00, 0xFF, 0x00]) .first 0 .dc
     ∃ v u, s.sq.block = some ⟨.first, ⟨0, 0, 0⟩, 0, .dc⟩ ∧ receive 15 s = .ok (v, u) ∧ s.block? ⟨0, 0, 0⟩ = some (blockOf [1]) ∧
       inInt32 (vget s.pr.pred 0 0 + extend v 15) = true ∧ inInt32 ((vget s.pr.pred 0 0 + extend v 15) * 2 ^ 13) = true) := by
  obtain ⟨v, u, h, hp⟩ := okIs_elim
    (m := receive 15 (State.opened (unitBox 2 0 0 13 (blockOf [1]) [0xFF, 0x00, 0xFF, 0x00]) .first 0 .dc))
    (p := fun v _ => inInt32 (extend v 15) && inInt32 (extend v 15 * 2 ^ 13)) (by decide +kernel)
  simp only [Bool.and_eq_true] at hp
  refine ⟨v, u, by decide +kernel, h, by decide +kernel, ?_, ?_⟩
  · rw [show vget _ 0 0 = (0 : Int) from by decide +kernel, Int.zero_add]; exact hp.1
  · rw [show vget _ 0 0 = (0 : Int) from by decide +kernel, Int.zero_add]; exact hp.2

theorem witness_AcSymbolsOfAFirstPass :
    (let s := State.opened (unitBox 0 0 63 0 zeroBlock [0x80]) .seq 48 .ac
     s.sq.block = some ⟨.seq, ⟨0, 0, 0⟩, 48, .ac⟩ ∧ 48 + 16 ≤ 63 + 1 ∧ 63 + 1 < 49 + 16 ∧ 48 + (15 : BitVec 4).toNat ≤ 63 ∧
     63 < 49 + (15 : BitVec 4).toNat ∧ s.block? ⟨0, 0, 0⟩ = some zeroBlock ∧ okIs (receive 1 s) (fun v _ => inInt32 (extend v 1)) = true ∧
     wfEobn 1 = true ∧ wfEobn 14 = true) ∧
    (let s := State.opened (unitBox 2 1 5 0 zeroBlock [0x80, 0x12]) .first 1 .ac
     s.sq.block = some ⟨.first, ⟨0, 0, 0⟩, 1, .ac⟩ ∧ okIs (receive 14 s) (fun _ _ => true) = true) := by decide +kernel

theorem witness_AcSymbolsOfARefinement :
    (let s := State.opened (unitBox 2 1 5 0 (blockOf [0, 2, 0, 0, -2, 0]) [0xA0]) .refine 1 .ac
     s.sq.block = some ⟨.refine, ⟨0, 0, 0⟩, 1, .ac⟩ ∧ s.block? ⟨0, 0, 0⟩ = some (blockOf [0, 2, 0, 0, -2, 0]) ∧
     okIs (Rule.eobPass 1 5 64 1 (blockOf [0, 2, 0, 0, -2, 0]) s) (fun _ _ => true) = true ∧
     okIs (Rule.skipZeros 1 5 64 1 15 (blockOf [0, 2, 0, 0, -2, 0]) s) (fun r _ => r.1 == 6) = true ∧
     okIs (nextBit s) (fun _ u => okIs (Rule.skipZeros 1 5 64 1 0 (blockOf [0, 2, 0, 0, -2, 0]) u) fun r _ => r.1 == 2) = true ∧
     okIs (nextBit s) (fun _ u => okIs (Rule.skipZeros 1 5 64 1 3 (blockOf [0, 2, 0, 0, -2, 0]) u) fun r _ => r.1 == 6) = true) := by
  decide +kernel

theorem witness_HufSeqRoutine :
    (let s := unitBox 0 0 63 0 zeroBlock [0xFE, 0x90, 0x2B]
     s.sc.mcud[s.sc.entry]? = some ⟨0, 0, 0⟩ ∧ s.sq.block = none ∧ s.block? (s.addressOf ⟨0, 0, 0⟩) = some zeroBlock ∧
     okIs (Rule.hufSeq (s.addressOf ⟨0, 0, 0⟩) s) (fun _ t => coeffs t 2 == some [576, 0]) = true) := by decide +kernel

theorem witness_HufProgressiveRoutines_first :
    (let s := unitBox 2 0 0 1 zeroBlock [0x7F]
     s.sc.mcud[s.sc.entry]? = some ⟨0, 0, 0⟩ ∧ s.sq.block = none ∧ s.block? (s.addressOf ⟨0, 0, 0⟩) = some zeroBlock ∧
     okIs (Rule.hufDcFirst (s.addressOf ⟨0, 0, 0⟩) s) (fun _ t => coeffs t 1 == some [6]) = true) ∧
    (let s := unitBox 2 1 63 0 zeroBlock [0xA0]
     okIs (Rule.hufAcFirst (s.addressOf ⟨0, 0, 0⟩) s) (fun _ t => t.pr.eobrun == 0) = true ∧
     0 < ({ s with pr := { s.pr with eobrun := 1 } } : State).pr.eobrun) := by decide +kernel

theorem witness_HufProgressiveRoutines_refine :
    (let s := unitBox 2 1 5 0 (blockOf [0, 2, 0, 0, -2, 0]) [0xCE, 0xBF]
     s.sc.mcud[s.sc.entry]? = some ⟨0, 0, 0⟩ ∧ s.sq.block = none ∧
     s.block? (s.addressOf ⟨0, 0, 0⟩) = some (blockOf [0, 2, 0, 0, -2, 0]) ∧
     okIs (Rule.hufAcRefine (s.addressOf ⟨0, 0, 0⟩) s) (fun _ t => coeffs t 6 == some [0, 3, 0, 1, -3, 0]) = true ∧
     okIs (nextBit s) (fun b _ => b) = true) := by decide +kernel

/-- The four predictions of R405, and a difference by each lossless instruction. -/
theorem witness_LosslessInstructions :
    (losslessBox 3 7 0 [] []).predicts ⟨0, 0, 0⟩ 128 ∧
    (losslessBox 7 0 0 [] []).predicts ⟨0, 3, 1⟩ 0 ∧
    (losslessBox 3 7 0 ([0, 0, 0, 0, 0] ++ [0, 9, 4]) []).predicts ⟨0, 1, 0⟩ 9 ∧
    (losslessBox 3 7 0 ([0, 0, 0, 0, 0] ++ [0, 9, 4]) []).predicts ⟨0, 0, 1⟩ 9 ∧
    (losslessBox 3 7 0 ([0, 0, 0, 0, 0] ++ [0, 9, 4, 0, 0] ++ [0, 3]) []).predicts ⟨0, 1, 1⟩ 3 ∧
    (losslessBox 3 7 0 [] []).sample? ⟨0, 3, 1⟩ ≠ none := by
  refine ⟨(by decide : (128 : Int) = 2 ^ (8 - 0 - 1)), (rfl : (0 : Int) = 0), ⟨9, by decide +kernel, rfl⟩, ⟨9, by decide +kernel, rfl⟩,
    ⟨3, 4, 9, by decide +kernel, by decide +kernel, by decide +kernel, by decide +kernel⟩, by decide +kernel⟩

theorem witness_LosslessInstructions_runs :
    (let s := State.opened (losslessBox 3 1 0 [] []) .lossless 0 .dc
     s.sq.block = some ⟨.lossless, ⟨0, 0, 0⟩, 0, .dc⟩ ∧
     okIs (receive 0 s) (fun v u => okIs (storeSample ⟨0, 0, 0⟩ (extend v 0) u) fun _ _ => true) = true) ∧
    (let s := losslessBox 3 1 0 [] [0x4F]
     s.sc.mcud[s.sc.entry]? = some ⟨0, 0, 0⟩ ∧ s.sq.block = none ∧
     okIs (Rule.hufLossless (s.addressOf ⟨0, 0, 0⟩) s) (fun _ _ => true) = true) ∧
    (let s := losslessBox 11 1 0 [] [0, 0]
     okIs (decodeDiffLl 0 0 100 s) (fun diff u => okIs (storeSample ⟨0, 0, 0⟩ diff u) fun _ _ => true) = true ∧
     llArithCtx s.params 0 0 (s.condL 0) (s.condU 0) = (0, 100)) := by decide +kernel

theorem Stats.init_ok : Stats.init.ok := by
  intro t
  by_cases h : t < 4
  · have : ∀ t < 4, cellsFrom 0 (vget Stats.init.ll t []) = true := by decide +kernel
    exact this t h
  · have : vget Stats.init.ll t [] = [] := by simp [vget, h]
    rw [this]; rfl

theorem witness_ArithDecodeKeepsItsBounds :
    (let s := unitBox 9 0 63 0 zeroBlock [1, 2]
     s.qm.ok ∧ s.st.ok ∧ binValid (s.st.binByte .fixed) = true ∧ binValid (s.st.binByte (.ac 3 255)) = true ∧ s.rd.segEnd ≤ s.inLen) ∧
    Coder.ok ⟨0x10000, 0xFFFF, 0, true⟩ ∧ Coder.ok ⟨1, 0x7F, 7, false⟩ ∧ binValid 0xF0 = true :=
  ⟨⟨by decide +kernel, Stats.init_ok, by decide +kernel, by decide +kernel, by decide +kernel⟩, by decide, by decide, by decide⟩

/-- The five decisions of a bin at its start, and the three ways to renormalise. -/
theorem witness_ArithDecodeKeepsItsBounds_decision :
    (let t (a : Nat) : Nat := (a - 0x5A1D) * 2 ^ 0
     (lget qeTable (unitBox 9 0 63 0 zeroBlock [] |>.st.binByte (.dc 0 0)).toNat ⟨0, 0, 0, false⟩).qe = 0x5A1D ∧
     (t 0x8000 ≤ 0x7FFF ∧ 0x8000 - 0x5A1D < 0x5A1D) ∧ (t 0x10000 ≤ 0xFFFF ∧ 0x5A1D ≤ 0x10000 - 0x5A1D) ∧
     (0 < t 0x8000 ∧ 0x8000 - 0x5A1D < 0x8000) ∧ (0 < t 0xC000 ∧ 0xC000 - 0x5A1D < 0x8000 ∧ 0x5A1D ≤ 0xC000 - 0x5A1D) ∧
     (0 < t 0x10000 ∧ 0x8000 ≤ 0x10000 - 0x5A1D)) ∧
    (let s := unitBox 9 0 63 0 zeroBlock [1, 2]
     s.qm.ok ∧ s.qm.a = 0 ∧ okIs (byteIn s) (fun _ u => okIs (byteIn u) fun _ _ => true) = true) ∧
    Coder.ok ⟨0x4000, 0, 1, false⟩ ∧ Coder.ok ⟨0x7FFF, 0x7FFE, 0, false⟩ := by decide +kernel

/-- The state after a list of decisions, none where another one is met. -/
def runBins : List (Bin × Bool) → State → Option State
  | [], s => some s
  | (bin, d) :: rest, s =>
    match arithDecode bin s with
    | .ok r => if r.1 = d then runBins rest r.2 else none
    | .error _ => none

theorem decides_of_runBins : ∀ {l : List (Bin × Bool)} {s u : State}, runBins l s = some u → Rule.decides l s u
  | [], _, _, h => (Option.some.inj h).symm
  | (bin, d) :: rest, s, u, h => by
    unfold runBins at h
    split at h
    · rename_i r hr
      split at h
      · rename_i hd
        exact ⟨r.2, by rw [hr, ← hd], decides_of_runBins h⟩
      · cases h
    · cases h

theorem decides_elim {l : List (Bin × Bool)} {s : State} {p : State → Bool} (h : (runBins l s).any p = true) :
    ∃ u, Rule.decides l s u ∧ p u = true := by
  cases hr : runBins l s with
  | none => rw [hr] at h; cases h
  | some u => rw [hr] at h; exact ⟨u, decides_of_runBins hr, h⟩

/-- Bytes of zero, and the first 250 bins of table 0 near certain (QE index 13, Qe = 1): 0 for those listed, 1 for the others. -/
def binsBox (zeros : List Nat) : State :=
  let s := unitBox 11 0 63 0 zeroBlock [0, 0, 0, 0]
  let v (i : Nat) : Byte := if zeros.contains i then 0x0D else 0x8D
  { s with st := {
      dc := vset s.st.dc 0 (Vector.ofFn fun i => v i.val)
      ac := vset s.st.ac 0 (Vector.ofFn fun i => v i.val)
      ll := vset s.st.ll 0 ((List.range 250).map fun i => (i, v i)) } }

/-- No difference; one of magnitude 1; the largest, its 14 magnitude bits 1; a category too many. -/
theorem witness_DecisionTrees :
    (∃ u, Rule.decides [(.dc 0 0, false)] (binsBox [0]) u) ∧
    (∃ u, Rule.decides ([(.dc 0 0, true), (.dc 0 1, false)] ++ [(.dc 0 2, false)]) (binsBox [1, 2]) u) ∧
    (∃ u t, Rule.decides ([(.dc 0 0, true), (.dc 0 1, true)] ++ [(.dc 0 3, true)] ++ Rule.unary (.dc 0) 20 14) (binsBox [34]) u ∧
      Rule.decides (Rule.bitsIn (.dc 0 48) (List.replicate 14 true)) { u with pr := { u.pr with dcCtx := vset u.pr.dcCtx 0 16 } } t) ∧
    (∃ u, Rule.decides ([(.dc 0 0, true), (.dc 0 1, true)] ++ [(.dc 0 3, true)] ++ Rule.ones (.dc 0) 20 15) (binsBox []) u) := by
  refine ⟨?_, ?_, ?_, ?_⟩
  · obtain ⟨u, h, -⟩ := decides_elim (p := fun _ => true) (l := [(.dc 0 0, false)]) (s := binsBox [0]) (by decide +kernel)
    exact ⟨u, h⟩
  · obtain ⟨u, h, -⟩ := decides_elim (p := fun _ => true)
      (l := [(.dc 0 0, true), (.dc 0 1, false)] ++ [(.dc 0 2, false)]) (s := binsBox [1, 2]) (by decide +kernel)
    exact ⟨u, h⟩
  · obtain ⟨u, h, hu⟩ := decides_elim (l := [(.dc 0 0, true), (.dc 0 1, true)] ++ [(.dc 0 3, true)] ++ Rule.unary (.dc 0) 20 14)
      (s := binsBox [34]) (p := fun u => (runBins (Rule.bitsIn (.dc 0 48) (List.replicate 14 true))
        { u with pr := { u.pr with dcCtx := vset u.pr.dcCtx 0 16 } }).any fun _ => true) (by decide +kernel)
    obtain ⟨t, ht, -⟩ := decides_elim hu
    exact ⟨u, t, h, ht⟩
  · obtain ⟨u, h, -⟩ := decides_elim (p := fun _ => true)
      (l := [(.dc 0 0, true), (.dc 0 1, true)] ++ [(.dc 0 3, true)] ++ Rule.ones (.dc 0) 20 15) (s := binsBox []) (by decide +kernel)
    exact ⟨u, h⟩

/-- An AC value of magnitude 1 and of magnitude 2, the largest, and a category too many. -/
theorem witness_DecisionTrees_ac :
    (∃ u, Rule.decides [(.fixed, false), (.ac 0 2, false)] (binsBox [2]) u) ∧
    (∃ u, Rule.decides [(.fixed, false), (.ac 0 2, true), (.ac 0 2, false)] (unitBox 9 0 63 0 zeroBlock [0x40, 0]) u) ∧
    (∃ u t, Rule.decides ([(.fixed, false), (.ac 0 2, true), (.ac 0 2, true)] ++ Rule.unary (.ac 0) 189 13) (binsBox [202]) u ∧
      Rule.decides (Rule.bitsIn (.ac 0 216) (List.replicate 14 true)) u t) ∧
    (∃ u, Rule.decides ([(.fixed, false), (.ac 0 2, true), (.ac 0 2, true)] ++ Rule.ones (.ac 0) 217 14) (binsBox []) u) := by
  refine ⟨?_, ?_, ?_, ?_⟩
  · obtain ⟨u, h, -⟩ := decides_elim (p := fun _ => true) (l := [(.fixed, false), (.ac 0 2, false)]) (s := binsBox [2])
      (by decide +kernel)
    exact ⟨u, h⟩
  · obtain ⟨u, h, -⟩ := decides_elim (p := fun _ => true) (l := [(.fixed, false), (.ac 0 2, true), (.ac 0 2, false)])
      (s := unitBox 9 0 63 0 zeroBlock [0x40, 0]) (by decide +kernel)
    exact ⟨u, h⟩
  · obtain ⟨u, h, hu⟩ := decides_elim (l := [(.fixed, false), (.ac 0 2, true), (.ac 0 2, true)] ++ Rule.unary (.ac 0) 189 13)
      (s := binsBox [202]) (p := fun u => (runBins (Rule.bitsIn (.ac 0 216) (List.replicate 14 true)) u).any fun _ => true)
      (by decide +kernel)
    obtain ⟨t, ht, -⟩ := decides_elim hu
    exact ⟨u, t, h, ht⟩
  · obtain ⟨u, h, -⟩ := decides_elim (p := fun _ => true)
      (l := [(.fixed, false), (.ac 0 2, true), (.ac 0 2, true)] ++ Rule.ones (.ac 0) 217 14) (s := binsBox []) (by decide +kernel)
    exact ⟨u, h⟩

/-- The same of a lossless difference. -/
theorem witness_DecisionTrees_lossless :
    (∃ u, Rule.decides [(.ll 0 0, false)] (binsBox [0]) u) ∧
    (∃ u, Rule.decides ([(.ll 0 0, true), (.ll 0 1, false)] ++ [(.ll 0 2, false)]) (binsBox [1, 2]) u) ∧
    (∃ u t, Rule.decides ([(.ll 0 0, true), (.ll 0 1, true)] ++ [(.ll 0 3, true)] ++ Rule.unary (.ll 0) 100 14) (binsBox [114]) u ∧
      Rule.decides (Rule.bitsIn (.ll 0 128) (List.replicate 14 true)) u t) ∧
    (∃ u, Rule.decides ([(.ll 0 0, true), (.ll 0 1, true)] ++ [(.ll 0 3, true)] ++ Rule.ones (.ll 0) 129 15) (binsBox []) u) := by
  refine ⟨?_, ?_, ?_, ?_⟩
  · obtain ⟨u, h, -⟩ := decides_elim (p := fun _ => true) (l := [(.ll 0 0, false)]) (s := binsBox [0]) (by decide +kernel)
    exact ⟨u, h⟩
  · obtain ⟨u, h, -⟩ := decides_elim (p := fun _ => true)
      (l := [(.ll 0 0, true), (.ll 0 1, false)] ++ [(.ll 0 2, false)]) (s := binsBox [1, 2]) (by decide +kernel)
    exact ⟨u, h⟩
  · obtain ⟨u, h, hu⟩ := decides_elim (l := [(.ll 0 0, true), (.ll 0 1, true)] ++ [(.ll 0 3, true)] ++ Rule.unary (.ll 0) 100 14)
      (s := binsBox [114]) (p := fun u => (runBins (Rule.bitsIn (.ll 0 128) (List.replicate 14 true)) u).any fun _ => true)
      (by decide +kernel)
    obtain ⟨t, ht, -⟩ := decides_elim hu
    exact ⟨u, t, h, ht⟩
  · obtain ⟨u, h, -⟩ := decides_elim (p := fun _ => true)
      (l := [(.ll 0 0, true), (.ll 0 1, true)] ++ [(.ll 0 3, true)] ++ Rule.ones (.ll 0) 129 15) (s := binsBox []) (by decide +kernel)
    exact ⟨u, h⟩

theorem witness_AriRoutines :
    (let s := unitBox 9 0 63 0 zeroBlock [0xD2, 0xE7, 0xE0, 0x20]
     s.sc.mcud[s.sc.entry]? = some ⟨0, 0, 0⟩ ∧ s.block? (s.addressOf ⟨0, 0, 0⟩) = some zeroBlock ∧
     okIs (Rule.ariSeq (s.addressOf ⟨0, 0, 0⟩) s) (fun _ t => coeffs t 1 == some [576]) = true ∧
     okIs (decodeDcDiff 0 s) (fun d _ => inInt32 d) = true ∧ okIs (arithDecode .fixed s) (fun _ _ => true) = true) ∧
    (let s := unitBox 10 1 5 1 (blockOf [0, 2]) [0, 0]
     okIs (Rule.ariAcFirst (s.addressOf ⟨0, 0, 0⟩) s) (fun _ _ => true) = true ∧
     okIs (Rule.ariAcRefine (s.addressOf ⟨0, 0, 0⟩) s) (fun _ _ => true) = true) := by decide +kernel

theorem witness_EntropyFrames :
    readsHuffman .zrl = true ∧ readsDecisions (.ariLossless true) = true ∧
    (let s := State.opened (unitBox 0 0 63 0 zeroBlock []) .seq 1 .ac
     s.busy = true ∧ nextIs (exec .eob s) (·.busy) = true ∧ targetOf .eob s ≠ some ⟨0, 1, 0⟩) ∧
    (let s := unitBox 10 1 63 0 zeroBlock [0, 0]
     s.busy = true ∧ nextIs (exec (.ariAcFirst false) s) (·.busy) = true ∧ targetOf (.ariAcFirst false) s ≠ some ⟨0, 1, 0⟩) := by
  decide +kernel

/-! ### Witnesses: reconstruction, output, the encoder, host memory, the invariant -/

theorem witness_DequantizeAndTransform :
    (∀ k < 64, inInt32 (vget (blockOf [576, -3]) k 0 * (vget (Vector.replicate 64 (65535#16)) k 0).toNat) = true) ∧
    Params.reset.idct = .reference ∧ 1 ≤ 1 ∧ (∀ k < 64, 0 < k → vget (blockOf [576]) k 0 = 0) := by decide +kernel

/-- A frame of one component at its end. -/
def endBox (ft : BitVec 4) : State :=
  let s := unitBox ft 0 63 0 (blockOf [8]) []
  { s with
    tb := { s.tb with
      cover := coverSet s.tb.cover 0 0 63 0, ql := vset s.tb.ql 0 (some (Vector.replicate 64 (65535#16))) }
    sq := { s.sq with phase := .frameEnd } }

/-- A frame at its end: not covered; covered, alone and in a hierarchical image; a lossless one; one whose samples do not fit. -/
theorem witness_FrameEnd :
    (let s := endBox 0
     s.script = [] ∧ s.sq.phase = .frameEnd ∧ s.undisturbed ∧ s.hi.dhp = none ∧ (State.withDhp s).hi.dhp ≠ none ∧
     (∀ k < 64, coverAt s.tb.cover 0 k = some 0) ∧ s.fr.nf.toNat = 1 ∧ coverAt (unitBox 0 0 63 0 zeroBlock []).tb.cover 0 0 = none ∧
     okIs (forComps reconstructComp [0] s) (fun _ t => okIs (forComps accumulateComp [0] t) fun _ _ => true) = true ∧
     s.plane 0 = some (.dct 1 1 [blockOf [8]]) ∧ vget s.tb.ql 0 none = some (Vector.replicate 64 65535) ∧
     s.roomFor (.samples (8 * 1) (8 * 1)) ∧
     ∀ k < 64, inInt32 (vget (blockOf [8]) k 0 * (vget (Vector.replicate 64 (65535#16)) k 0).toNat) = true) ∧
    (let s := losslessBox 3 1 0 [] []
     s.fr.ft.toNat % 4 = 3 ∧ vget s.fr.seen 0 false = false ∧ vget (vset s.fr.seen 0 true) 0 false = true ∧
     s.plane 0 = some (.lossless 4 2 (List.replicate 15 0)) ∧ (List.replicate 15 (0#16)).length = (4 + 1) * (2 + 1) ∧
     s.roomFor (.samples 4 2) ∧ s.sample? ⟨0, 3, 1⟩ = some 0) ∧
    okIs (forComps reconstructComp [0] { endBox 0 with regs := { (endBox 0).regs with scrLen := 0 } }) (fun _ _ => true) = false := by
  decide +kernel

/-- The error of that frame, and of one whose accumulator is of another size. -/
theorem witness_FrameEnd_errors :
    (∃ u, forComps reconstructComp [0] { endBox 0 with regs := { (endBox 0).regs with scrLen := 0 } } =
      .error (.raise .outOfMemory u)) ∧
    ∃ u, forComps accumulateComp [0] { endBox 5 with arena := { (endBox 5).arena with
      rs := vset (endBox 5).arena.rs 0 (some ⟨8, 8, []⟩), acc := [⟨1, ⟨3, 3, []⟩⟩] } } = .error (.raise .formatError u) :=
  ⟨⟨_, rfl⟩, ⟨_, rfl⟩⟩

/-- A plane opened; one of the same size, one that grows by two in both directions, one that is one sample short of it, and one of
another size; an EXP that names both directions. -/
theorem witness_HierarchicalAccumulation :
    (let s : State := { endBox 0 with arena := { (endBox 0).arena with rs := vset (endBox 0).arena.rs 0 (some ⟨8, 8, []⟩) } }
     vget s.arena.rs 0 none = some ⟨8, 8, []⟩ ∧ s.fr.ft.getLsbD 2 = false ∧ s.roomFor (.accumulator 8 8) ∧ s.params.expand = .reference ∧
     ceilDiv (s.fr.x.toNat * s.fr.hOf 0) s.fr.hmax.toNat = 8 ∧ ceilDiv (s.fr.y.toNat * s.fr.vOf 0) s.fr.vmax.toNat = 8 ∧
     (let t : State := { s with fr := { s.fr with ft := 5, exp := some (true, true) }, arena := { s.arena with acc := [⟨1, ⟨4, 4, []⟩⟩] } }
      t.fr.ft.getLsbD 2 = true ∧ findAcc t.arena.acc (t.fr.compAt 0).id = some ⟨4, 4, []⟩ ∧ t.roomFor (.accumulator 8 8) ∧
      t.fr.exp = some (true, true))) ∧
    (4 < 8 ∧ 8 = 2 * 4) ∧ (4 < 7 ∧ 7 + 1 = 2 * 4) ∧ ¬ (8 = 3 ∨ 3 < 8 ∧ (8 = 2 * 3 ∨ 8 + 1 = 2 * 3)) ∧
    ¬ (8 = 9 ∨ 9 < 8 ∧ (8 = 2 * 9 ∨ 8 + 1 = 2 * 9)) := by decide +kernel

theorem witness_ScaleToSixteenBits : Params.reset.scale16 = .reference ∧ 3 ≤ 2 ^ 2 - 1 ∧ 65535 ≤ 2 ^ 16 - 1 := by decide

theorem witness_PixelSinkLayout :
    (let s := box .output []
     let t : State := { s with breach := ⟨false, [(0x2007, 0x2008)]⟩ }
     s.mem.wf = true ∧ (List.replicate 64 (1 : Byte)).length = 8 * 8 * 1 ∧ 8 * 8 * 1 ≤ s.outLen ∧ s.outLen < 8 * 9 * 1 ∧
     (List.replicate 72 (1 : Byte)).length = 8 * 9 * 1 ∧ inRanges t.breach.out (t.outAddr 7) = true ∧
     inRanges t.breach.out (t.outAddr 8) = false ∧ s.arena.used = 0 ∧ (s.allocated .layoutRecord).arena.used ≠ 0 ∧
     s.inArena 0x3000 = true ∧ s.inArena 0x2FFF = false) := by decide +kernel

/-- A decoded image of one pixel at the output, and one whose pixels do not fit. -/
theorem witness_PixelSinkLayout_output :
    ∃ (s : State) (rs : Samples) (o : OutComp), s.script = [] ∧ s.sq.phase = .output ∧ s.undisturbed ∧ s.hi.transfer = some .gray ∧
      s.hi.dhp = none ∧ [o].length = s.fr.nf.toNat ∧ vget s.arena.rs 0 none = some rs ∧
      o = ⟨Samples.build (ceilDiv (s.fr.x.toNat * s.fr.hOf 0) s.fr.hmax.toNat) (ceilDiv (s.fr.y.toNat * s.fr.vOf 0) s.fr.vmax.toNat)
        (fun x y => if s.fr.ft.toNat % 4 = 3 then min (rs.at x y) (2 ^ s.fr.p.toNat - 1) else rs.at x y), s.fr.hOf 0, s.fr.vOf 0⟩ ∧
      (∃ t, writePixels 1 1 (List.replicate 8 0) s = .ok ((), t)) ∧
      ∃ t, writePixels 3 3 (List.replicate 72 0) s = .error (.raise .outOfMemory t) :=
  let s : State := { unitBox 0 0 63 0 zeroBlock [] with
    sq := { State.reset.sq with phase := .output }, hi := { State.reset.hi with transfer := some .gray }
    fr := { (unitBox 0 0 63 0 zeroBlock []).fr with x := 1, y := 1 }
    arena := { State.reset.arena with rs := vset State.reset.arena.rs 0 (some ⟨8, 8, List.replicate 64 7⟩) } }
  ⟨s, ⟨8, 8, List.replicate 64 7⟩, _, rfl, rfl, rfl, rfl, rfl, rfl, by decide +kernel, rfl, ⟨_, rfl⟩, ⟨_, rfl⟩⟩

/-- A hierarchical image whose component has not reached its full size, and one where it has. -/
theorem witness_PixelSinkLayout_hierarchical :
    let s := State.withDhp (box .output [])
    s.hi.dhp = some ⟨8, 2, 4, [(1, 1, 1)]⟩ ∧ ceilDiv (4 * 1) (([1] : List Nat).foldl max 0) = 4 ∧
    findAcc [⟨1, ⟨2, 1, []⟩⟩] 1 = some ⟨2, 1, []⟩ ∧ findAcc [⟨1, ⟨4, 2, List.replicate 8 300⟩⟩] 1 = some ⟨4, 2, List.replicate 8 300⟩ ∧
    ([(1, 1, 1)] : List (Byte × Nat × Nat)).find? (fun e => e.1 == 1) = some (1, 1, 1) := by decide +kernel

theorem witness_EncoderChecksAndStuffing :
    ((box .encRead []).script = [] ∧ (box .encRead []).sq.phase = .encRead ∧ (box .encRead []).undisturbed ∧ (box .encRead []).regs.imgWidth.toNat % 65536 = 0) ∧
    (let s := box .encRead [1, 2, 3, 4, 5, 6, 7]
     let t : State := { s with regs := { s.regs with imgWidth := 1, imgHeight := 1 } }
     t.regs.imgWidth.toNat % 65536 = 1 ∧ t.inLen < 8 * 1 * 1) ∧
    (let s := box .encWrite []
     let at63 : State := { s with enc := { s.enc with opos := 63 } }
     let at64 : State := { s with enc := { s.enc with opos := 64 } }
     s.enc.opos + 1 < s.outLen ∧ at63.enc.opos < at63.outLen ∧ at63.enc.opos + 1 = at63.outLen ∧ at64.outLen ≤ at64.enc.opos ∧ (0xFE : Byte) ≠ 0xFF) := by
  decide +kernel

/-- The largest DC difference and value; Y, Cb and Cr blocks in turn; a count. -/
theorem witness_EncoderSymbols :
    (∀ k < 64, (vget (blockOf [32767, -32767, 0, 5]) k 0).natAbs < 2 ^ 15) ∧ (32767 - 0 : Int).natAbs < 2 ^ 15 ∧ 3 < 4 ∧ 255 < 256 := by
  decide +kernel

/-- No symbol, one, three, and so many that a length passes 16; and the lengths of a complete code. -/
theorem witness_EncoderCodeLengths :
    ((List.range 2).filter fun k => lget [0, 0] k 0 != 0) = [] ∧ ((List.range 2).filter fun k => lget [0, 9] k 0 != 0) = [1] ∧
    (let freq := [4, 0, 1, 1]
     let used := (List.range freq.length).filter fun k => lget freq k 0 != 0
     let depths := Rule.mergePending used.length (used.map fun k => ⟨lget freq k 0, k, [(k, 0)]⟩)
     2 ≤ used.length ∧ freq.length ≤ 256 ∧
     ((List.range freq.length).map fun k => ((depths.find? fun d => d.1 == k).map (·.2)).getD 0) = [1, 0, 2, 2]) ∧
    (∀ l ∈ [1, 0, 2, 2], l ≤ 16) ∧ [1, 0, 2, 2].length ≤ 256 ∧
    buildTrie (bitsOf [1, 0, 2, 2]) (huffvalOf [1, 0, 2, 2]) = some [⟨0, 1, 0⟩, ⟨2, 2, 2⟩, ⟨3, 2, 3⟩] := by decide +kernel

theorem witness_HostStores :
    State.reset.mem.wf = true ∧ rangesFrom 0 State.reset.breach.out = true ∧ State.reset.busy = false ∧
    (let s := box .scan [1]
     s.mem.wf = true ∧ rangesFrom 0 s.breach.out = true ∧ s.busy = true ∧ s.inInput 256 = true ∧ s.inInput 257 = false ∧
     s.inOutput 0x203F = true ∧ s.inOutput 257 = false ∧ s.inArena 257 = false ∧ s.inArena 0x3000 = true ∧
     (s.hostStore 0x3000 1).breach.arena = true ∧ (s.hostStore 0x3000 1).script = [] ∧
     (s.hostStore 0x203F 1).breach = ⟨false, [(0x203F, 0x2040)]⟩) := by decide +kernel

theorem witness_EveryStep :
    State.reset.Inv ∧ (box .scan [0xFF, 0x01]).Inv ∧ (box .scan [0xFF, 0x01]).script = [] ∧
    nextIs (step (box .scan [0xFF, 0x01])) (fun _ => true) = true ∧ (box .scan [0xFF, 0x01]).inOutput 256 = false ∧
    (box .scan [0xFF, 0x01]).inArena 256 = false ∧
    (box .scan [0xFF, 0x01]).busy = true ∧ (box .scan [0xFF, 0x01]).script.head? ≠ some .reset := by decide +kernel

end Sys2Proof.Tests
end

namespace Sys2Proof.Machine

/-! ### The status word and the interrupt level (R32, R36) -/

@[simp] theorem statusWord_busy (b d e : Bool) : (statusWord b d e)[0] = b := by
  cases b <;> cases d <;> cases e <;> rfl

@[simp] theorem statusWord_done (b d e : Bool) : (statusWord b d e)[1] = d := by
  cases b <;> cases d <;> cases e <;> rfl

@[simp] theorem statusWord_err (b d e : Bool) : (statusWord b d e)[2] = e := by
  cases b <;> cases d <;> cases e <;> rfl

/-- At the end of an operation DONE is set, so the interrupt is IRQ_EN. -/
theorem State.finish_irq (s : State) (failed : Bool) : (s.finish failed).irq = s.irqEn := by
  simp [State.irq, State.irqEn, State.done]

/-- An accepted START clears DONE, and with it the interrupt. -/
theorem State.accept_irq (s : State) (op en : Bool) : (s.accept op en).irq = false := by
  simp [State.irq, State.done, HostRegs.start]

/-! ### A raise ends every enclosing rule (R16) -/

/-- What follows a raise does not run: the step is the failure entry at the state of the raise. -/
theorem runAct_bind_raise {α : Type} {m : Act α} {k : α → Act Unit} {s u : State} {e : ErrKind}
    (h : m s = .error (.raise e u)) : runAct (m >>= k) s = .next (failEntry e u) :=
  runAct_raise (by rw [act_bind, h])

/-! ### Memory after the failure entry (R112, R545) -/

theorem State.inArena_iff (s : State) (a : Nat) : s.inArena a = true ↔
    s.regs.scrBase.toNat ≤ a ∧ a < s.regs.scrBase.toNat + s.regs.scrLen.toNat := by
  simp [State.inArena]

theorem State.inOutput_iff (s : State) (a : Nat) : s.inOutput a = true ↔
    s.outAddr 0 ≤ a ∧ a < s.outAddr 0 + s.outLen := by
  simp [State.inOutput, State.outAddr, State.outLen]

theorem State.spill_mem_of_unused {s : State} (h : s.arena.used = 0) : s.spill.mem = s.mem := if_pos h

theorem State.spill_mem_of_used {s : State} (h : s.arena.used ≠ 0) :
    s.spill.mem = s.mem.forget s.regs.scrBase.toNat s.regs.scrLen.toNat := if_neg h

theorem State.spill_mem_wf {s : State} (hw : s.mem.wf = true) : s.spill.mem.wf = true := by
  by_cases h : s.arena.used = 0
  · rwa [State.spill_mem_of_unused h]
  · rw [State.spill_mem_of_used h]
    exact Memory.forget_wf hw _ _

/-- A range that is forgotten is unspecified, and what was unspecified stays so. -/
theorem Memory.unknown_forget_of {m : Memory} (hw : m.wf = true) {base len a : Nat}
    (h : (base ≤ a ∧ a < base + len) ∨ m.unknown a = true) : (m.forget base len).unknown a = true := by
  rw [Memory.unknown_forget hw]
  simpa using h

/-- The arena is unspecified where the engine allocated in it. -/
theorem State.spill_unknown {s : State} (hw : s.mem.wf = true) {a : Nat} (hu : s.arena.used ≠ 0) (ha : s.inArena a = true) :
    s.spill.mem.unknown a = true := by
  rw [State.spill_mem_of_used hu]
  exact Memory.unknown_forget_of hw (.inl ((s.inArena_iff a).1 ha))

/-- Where the engine did not allocate, or outside the arena, memory is kept. -/
theorem State.spill_outside {s : State} (hw : s.mem.wf = true) {a : Nat} (h : s.arena.used = 0 ∨ s.inArena a = false) :
    s.spill.mem.read a = s.mem.read a ∧ s.spill.mem.unknown a = s.mem.unknown a := by
  by_cases hu : s.arena.used = 0
  · rw [State.spill_mem_of_unused hu]
    exact ⟨rfl, rfl⟩
  · have ha := h.resolve_left hu
    rw [State.spill_mem_of_used hu]
    exact Memory.forget_outside hw (by simp [← State.inArena_iff, ha])

/-- After the failure entry the output buffer, and the arena where the engine allocated, are unspecified. -/
theorem failEntry_unknown (e : ErrKind) {s : State} (hw : s.mem.wf = true) {a : Nat}
    (h : s.inOutput a = true ∨ (s.arena.used ≠ 0 ∧ s.inArena a = true)) : (failEntry e s).mem.unknown a = true := by
  rw [State.failEntry_mem]
  refine Memory.unknown_forget_of (State.spill_mem_wf hw) ?_
  rcases h with ho | ⟨hu, ha⟩
  · exact .inl ((s.inOutput_iff a).1 ho)
  · exact .inr (State.spill_unknown hw hu ha)

/-- The failure entry keeps every other byte. -/
theorem failEntry_outside (e : ErrKind) {s : State} (hw : s.mem.wf = true) {a : Nat} (ho : s.inOutput a = false)
    (ha : s.arena.used = 0 ∨ s.inArena a = false) :
    (failEntry e s).mem.unknown a = s.mem.unknown a ∧ (failEntry e s).mem.read a = s.mem.read a := by
  obtain ⟨hread, hunknown⟩ := Memory.forget_outside (State.spill_mem_wf hw) (base := s.outAddr 0) (len := s.outLen) (c := a)
    (by simp [← State.inOutput_iff, ho])
  obtain ⟨hread', hunknown'⟩ := State.spill_outside hw ha
  exact ⟨hunknown.trans hunknown', hread.trans hread'⟩

/-! ### The registers after the failure entry (R540, R545) -/

/-- A decode withdraws the image size. -/
theorem failRegs_image_decode (e : ErrKind) {r : HostRegs} (h : r.ctrl.getLsbD 1 = false) :
    (failRegs e r).imgWidth = 0 ∧ (failRegs e r).imgHeight = 0 :=
  ⟨if_neg (ne_true_of_eq_false h), if_neg (ne_true_of_eq_false h)⟩

/-- An encode keeps the image size, which the host wrote. -/
theorem failRegs_image_encode (e : ErrKind) {r : HostRegs} (h : r.ctrl.getLsbD 1 = true) :
    (failRegs e r).imgWidth = r.imgWidth ∧ (failRegs e r).imgHeight = r.imgHeight :=
  ⟨if_pos h, if_pos h⟩

theorem succeed_status (s : State) : (succeed s).busy = false ∧ (succeed s).done = true ∧ (succeed s).err = false := by
  simp [succeed, State.busy, State.done, State.err]

theorem failEntry_status (e : ErrKind) (s : State) :
    (failEntry e s).err = true ∧ (failEntry e s).done = true ∧ (failEntry e s).busy = false := by
  simp [State.busy, State.done, State.err]

/-- Settles O15, clause by clause: the interrupt from the status words, the registers by computation, and memory from what the two
forgotten ranges of the failure entry cover. -/
theorem successAndFailure : Obligations.SuccessAndFailure := by
  refine ⟨fun s => ⟨rfl, s.finish_irq, s.accept_irq⟩, fun s => ?_, fun m k s u e h => ⟨runAct_raise h, runAct_bind_raise h⟩,
    fun e s hw => ?_⟩
  · obtain ⟨hbusy, hdone, herr⟩ := succeed_status s
    exact ⟨rfl, hbusy, hdone, herr, rfl, rfl, rfl, rfl, rfl, rfl, rfl, rfl⟩
  · obtain ⟨herr, hdone, hbusy⟩ := failEntry_status e s
    exact ⟨rfl, rfl, by cases e <;> rfl, rfl, rfl, rfl, rfl, failRegs_image_decode e, failRegs_image_encode e, herr, hdone, hbusy,
      rfl, rfl, rfl, rfl, rfl, rfl, rfl, rfl, fun a => ⟨failEntry_unknown e hw, failEntry_outside e hw⟩⟩

end Sys2Proof.Machine

namespace Sys2Proof.Machine

/-! ### What the output and the encoder do to the state (R456, R490-R513) -/

theorem length_pixelBytes (params : Config.Params) (p : Nat) (c : Config.Channels) : (pixelBytes params p c).length = 8 := rfl

theorem length_imageBytes (params : Config.Params) (kind : Config.TransferKind) (p w h hmax vmax : Nat) (comps : List OutComp) :
    (imageBytes params kind p w h hmax vmax comps).length = 8 * w * h := by
  simp only [imageBytes, List.length_flatMap, length_pixelBytes, List.map_const', List.sum_replicate, List.length_range,
    smul_eq_mul]
  ring

/-- Pixels that fill 8 bytes each stay in the output buffer, and an image size of 16 bits leaves the reserved bits 0. -/
theorem flow_writePixels {w h : Nat} {bytes : List Byte} (hw : w < 65536) (hh : h < 65536) (hb : bytes.length = 8 * w * h) :
    Stays Flow (writePixels w h bytes) := by
  refine stays_get_bind fun s => ?_
  by_cases hfit : s.outLen < 8 * w * h
  · rw [if_pos hfit]
    exact flow_raise _ s
  · rw [if_neg hfit]
    have hstep : Flow s
        { (s.spill.store (s.outAddr 0) bytes) with
          regs := { s.regs with imgWidth := BitVec.ofNat 32 w, imgHeight := BitVec.ofNat 32 h } } := by
      obtain ⟨-, -, -, -, -, hspill⟩ := flow_spill s
      refine ⟨⟨rfl, rfl, rfl, rfl⟩, ⟨rfl, rfl, rfl, rfl, rfl, rfl, rfl, rfl, rfl, rfl⟩, id, fun hok => ?_, id, fun hwf => ?_⟩
      · obtain ⟨hctrl, hstatus, hcode, -, -, hinfo⟩ := hok
        exact ⟨hctrl, hstatus, hcode, lt_of_le_of_lt (Nat.mod_le _ _) hw, lt_of_le_of_lt (Nat.mod_le _ _) hh, hinfo⟩
      · obtain ⟨hwf', hkept⟩ := hspill hwf
        refine ⟨Memory.storeList_wf _ _ hwf' _, fun a ho ha => ?_⟩
        obtain ⟨hread, hunknown⟩ := hkept a ho ha
        have hout := Memory.storeList_outside s.breach.out bytes hwf' (s.outAddr 0) a (by
          have hnot := mt (s.inOutput_iff a).2 (by simp [ho])
          omega)
        exact ⟨hout.1.trans hread, hout.2.trans hunknown⟩
    refine ⟨fun _ t ht => ?_, fun e t ht => ?_⟩ <;> rw [act_update] at ht
    · cases ht
      exact hstep
    · cases ht

@[simp] theorem flow_readU16le (off : Nat) : Stays Flow (readU16le off) := by
  simp (maxDischargeDepth := 60) [readU16le]

@[simp] theorem flow_readPixels : ∀ n off, Stays Flow (readPixels n off)
  | 0, _ => by simp [readPixels]
  | n + 1, off => by simp (maxDischargeDepth := 60) [readPixels, flow_readPixels n]

@[simp] theorem flow_encReadAct : Stays Flow encReadAct := by
  unfold encReadAct
  refine flow_bind flow_get fun s => flow_ite (flow_raise _) (flow_ite (flow_raise _) (flow_bind (flow_alloc _) fun _ =>
    flow_bind (flow_readPixels _ _) fun pixels => ?_))
  exact flow_update fun _ => by simp [Flow]

@[simp] theorem flow_encQuantAct : Stays Flow encQuantAct := flow_update fun _ => by simp [Flow]

@[simp] theorem flow_codeTable (i : Nat) : Stays Flow (codeTable i) := by
  unfold codeTable
  refine flow_bind flow_get fun s => flow_bind (flow_orFormatError _) fun len => flow_bind (flow_orFormatError _) fun codes => ?_
  exact flow_update fun _ => by simp [Flow]

@[simp] theorem flow_encCodeAct : Stays Flow encCodeAct := by
  unfold encCodeAct
  refine flow_bind (flow_update fun _ => ?_) fun _ => flow_bind (flow_forComps flow_codeTable _) fun _ =>
    flow_update fun _ => ?_ <;> simp [Flow]

@[simp] theorem flow_putByte (b : Byte) : Stays Flow (putByte b) := by
  unfold putByte
  exact flow_bind flow_get fun s => flow_bind (flow_memWrite1 _ _) fun _ => flow_update fun _ => by simp [Flow]

@[simp] theorem flow_putBytes : ∀ bs, Stays Flow (putBytes bs)
  | [] => by simp [putBytes]
  | b :: bs => flow_bind (flow_putByte b) fun _ => flow_putBytes bs

@[simp] theorem flow_putEntropyByte (b : Byte) : Stays Flow (putEntropyByte b) := by
  simp (maxDischargeDepth := 60) [putEntropyByte]

@[simp] theorem flow_putBit (b : Bool) : Stays Flow (putBit b) := by
  unfold putBit
  refine flow_bind flow_get fun s => flow_ite (flow_update fun _ => ?_)
    (flow_bind (flow_update fun _ => ?_) fun _ => flow_putEntropyByte _) <;> simp [Flow]

@[simp] theorem flow_putBits (v : Nat) : ∀ n, Stays Flow (putBits v n)
  | 0 => by simp [putBits]
  | n + 1 => flow_bind (flow_putBit _) fun _ => flow_putBits v n

@[simp] theorem flow_putTokens : ∀ ts, Stays Flow (putTokens ts)
  | [] => by simp [putTokens]
  | t :: ts => flow_bind flow_get fun _ => flow_bind (flow_putBits _ _) fun _ => flow_bind (flow_putBits _ _) fun _ =>
      flow_putTokens ts

@[simp] theorem flow_padScan : Stays Flow padScan := by simp (maxDischargeDepth := 60) [padScan]

/-! ### The end of an operation that succeeds (R587) -/

/-- Where the action ends without an error, the operation has ended with success, after a flow. -/
def Closes (m : Act Unit) : Prop :=
  ∀ s, (∀ t, m s = .ok ((), t) → ∃ u, Flow s u ∧ t = succeed u) ∧ ∀ e t, m s = .error (.raise e t) → Flow s t

theorem closes_succeed : Closes (update succeed) := by
  refine fun s => ⟨fun t h => ?_, fun e t h => ?_⟩ <;> rw [act_update] at h <;> cases h
  exact ⟨s, flow_chain.refl s, rfl⟩

theorem closes_bind {α : Type} {m : Act α} {f : α → Act Unit} (hm : Stays Flow m) (hf : ∀ a, Closes (f a)) :
    Closes (m >>= f) := by
  intro s
  obtain ⟨hok, hraise⟩ := hm s
  rcases h : m s with e | ⟨a, v⟩
  · refine ⟨fun t ht => ?_, fun e' t ht => ?_⟩ <;> rw [act_bind, h] at ht <;> cases ht
    exact hraise _ _ h
  · have hsv := hok a v h
    obtain ⟨hok', hraise'⟩ := hf a v
    refine ⟨fun t ht => ?_, fun e t ht => ?_⟩ <;> rw [act_bind, h] at ht
    · obtain ⟨u, hvu, rfl⟩ := hok' t ht
      exact ⟨u, flow_chain.trans hsv hvu, rfl⟩
    · exact flow_chain.trans hsv (hraise' e t ht)

/-- The last part of a decode: the components of the image, its pixels, success. -/
theorem closes_pixels (o : Option (List OutComp)) {w h : Nat} (hw : w < 65536) (hh : h < 65536) {bytes : List OutComp → List Byte}
    (hb : ∀ comps, (bytes comps).length = 8 * w * h) :
    Closes (do
      let comps ← orUndefined .samples o
      writePixels w h (bytes comps)
      update succeed) :=
  closes_bind (flow_orUndefined _ _) fun comps => closes_bind (flow_writePixels hw hh (hb comps)) fun _ => closes_succeed

theorem closes_outputAct : Closes outputAct := by
  unfold outputAct
  refine closes_bind flow_get fun s => closes_bind (flow_orUndefined _ _) fun kind => ?_
  dsimp only
  cases s.hi.dhp with
  | some d =>
    have hpixels := closes_pixels (dhpOutComps d s.arena.acc s.hi.ids) d.x.isLt d.y.isLt fun comps =>
      length_imageBytes s.params kind d.p.toNat d.x.toNat d.y.toNat d.hmax d.vmax comps
    dsimp only
    split
    · exact hpixels
    · exact closes_bind (flow_raise _) fun _ => hpixels
  | none => exact closes_pixels _ s.fr.x.isLt s.fr.y.isLt fun comps => length_imageBytes ..

theorem closes_encWriteAct : Closes encWriteAct := by
  unfold encWriteAct
  refine closes_bind (flow_update flow_spill) fun _ => closes_bind flow_get fun s => closes_bind (flow_putBytes _) fun _ =>
    closes_bind (flow_putBytes _) fun _ => closes_bind (flow_putTokens _) fun _ => closes_bind flow_padScan fun _ =>
    closes_bind (flow_putBytes _) fun _ => closes_bind (flow_putTokens _) fun _ => closes_bind flow_padScan fun _ =>
    closes_bind (flow_putBytes _) fun _ => closes_bind (flow_update fun _ => ?_) fun _ => closes_succeed
  simp [Flow]

end Sys2Proof.Machine

namespace Sys2Proof.Machine

/-! ### What a step can do (R266, R582, log 1) -/

/-- What a step of the engine within an operation leaves: the operation goes on, or has ended with success, or with an error. -/
inductive EngineTo (s : State) : State → Prop
  | goesOn {u : State} (h : Flow s u) : EngineTo s u
  | succeeds {u : State} (h : Flow s u) : EngineTo s (succeed u)
  | fails {u : State} (e : ErrKind) (h : Flow s u) : EngineTo s (failEntry e u)

theorem EngineTo.after {s u t : State} (hsu : Flow s u) (hut : EngineTo u t) : EngineTo s t := by
  cases hut with
  | goesOn h => exact .goesOn (flow_chain.trans hsu h)
  | succeeds h => exact .succeeds (flow_chain.trans hsu h)
  | fails e h => exact .fails e (flow_chain.trans hsu h)

theorem engineTo_of_flow {m : Act Unit} (hm : Stays Flow m) {s t : State} (h : runAct m s = .next t) : EngineTo s t := by
  rcases runAct_stays hm h with hst | ⟨e, u, hsu, rfl⟩
  · exact .goesOn hst
  · exact .fails e hsu

theorem engineTo_of_closes {m : Act Unit} (hm : Closes m) {s t : State} (h : runAct m s = .next t) : EngineTo s t := by
  obtain ⟨hok, hraise⟩ := hm s
  rcases runAct_cases m s with ⟨v, hv, h'⟩ | ⟨e, v, hv, h'⟩ | ⟨f, -, h'⟩ <;> rw [h'] at h <;> cases h
  · obtain ⟨u, hsu, rfl⟩ := hok t hv
    exact .succeeds hsu
  · exact .fails e (hraise e v hv)

/-! #### Instructions -/

/-- Every instruction but START is an action of the engine; START is accepted or ignored (R582). -/
theorem exec_cases (i : Instr) :
    (∃ m, Stays Flow m ∧ ∀ s, exec i s = runAct m s) ∨ ∃ op en, ∀ s, exec i s = .next (s.start op en) := by
  cases i with
  | tem | res02 | res04 | res08 | res10 | res20 | res40 | res80 | jpg | jpg0 | jpg8 | jpg12 =>
    exact .inl ⟨_, flow_scanIllegal, fun _ => rfl⟩
  | sof0 | sof1 | sof2 | sof3 | sof5 | sof6 | sof7 | sof9 | sof10 | sof11 | sof13 | sof14 | sof15 =>
    exact .inl ⟨_, flow_sofAct _, fun _ => rfl⟩
  | dht => exact .inl ⟨_, flow_byPhase (flow_scanAux _) flow_replayDht, fun _ => rfl⟩
  | dqt => exact .inl ⟨_, flow_byPhase (flow_scanAux _) flow_replayDqt, fun _ => rfl⟩
  | dac => exact .inl ⟨_, flow_byPhase (flow_scanAux _) flow_replayDac, fun _ => rfl⟩
  | dri => exact .inl ⟨_, flow_byPhase (flow_scanAux _) flow_replayDri, fun _ => rfl⟩
  | dnl => exact .inl ⟨_, flow_byPhase (flow_scanAux _) flow_replayDnl, fun _ => rfl⟩
  | exp => exact .inl ⟨_, flow_byPhase (flow_scanAux _) flow_replayExp, fun _ => rfl⟩
  | rst m => exact .inl ⟨_, flow_scanRst m, fun _ => rfl⟩
  | soi => exact .inl ⟨_, flow_scanSoi, fun _ => rfl⟩
  | eoi => exact .inl ⟨_, flow_scanEoi, fun _ => rfl⟩
  | sos => exact .inl ⟨_, flow_byPhase flow_scanSos flow_parseSos, fun _ => rfl⟩
  | dhp => exact .inl ⟨_, flow_scanDhp, fun _ => rfl⟩
  | app0 => exact .inl ⟨_, flow_scanApp0, fun _ => rfl⟩
  | app1 => exact .inl ⟨_, flow_scanApp1, fun _ => rfl⟩
  | app14 => exact .inl ⟨_, flow_scanApp14, fun _ => rfl⟩
  | app2 | app4 | app8 | app12 | app15 | com => exact .inl ⟨_, flow_scanSkip, fun _ => rfl⟩
  | hufSeq => exact .inl ⟨_, flow_of_calm calm_hufSeqAct, fun _ => rfl⟩
  | hufDcFirst => exact .inl ⟨_, flow_of_calm calm_hufDcFirstAct, fun _ => rfl⟩
  | hufDcRefine => exact .inl ⟨_, flow_of_calm calm_hufDcRefineAct, fun _ => rfl⟩
  | hufAcFirst => exact .inl ⟨_, flow_of_calm calm_hufAcFirstAct, fun _ => rfl⟩
  | hufAcRefine => exact .inl ⟨_, flow_of_calm calm_hufAcRefineAct, fun _ => rfl⟩
  | hufLossless => exact .inl ⟨_, flow_of_calm calm_hufLosslessAct, fun _ => rfl⟩
  | ariSeq => exact .inl ⟨_, flow_of_calm calm_ariSeqAct, fun _ => rfl⟩
  | ariDcFirst => exact .inl ⟨_, flow_of_calm calm_ariDcFirstAct, fun _ => rfl⟩
  | ariDcRefine => exact .inl ⟨_, flow_of_calm calm_ariDcRefineAct, fun _ => rfl⟩
  | ariAcFirst => exact .inl ⟨_, flow_of_calm calm_ariAcFirstAct, fun _ => rfl⟩
  | ariAcRefine => exact .inl ⟨_, flow_of_calm calm_ariAcRefineAct, fun _ => rfl⟩
  | ariLossless => exact .inl ⟨_, flow_of_calm calm_ariLosslessAct, fun _ => rfl⟩
  | dcCategory t => exact .inl ⟨_, flow_of_calm (calm_dcCategoryAct t.toNat), fun _ => rfl⟩
  | losslessDiff t => exact .inl ⟨_, flow_of_calm (calm_losslessDiffAct t.toNat), fun _ => rfl⟩
  | eob => exact .inl ⟨_, flow_of_calm (calm_endOfBandAct 0), fun _ => rfl⟩
  | zrl => exact .inl ⟨_, flow_of_calm calm_zrlAct, fun _ => rfl⟩
  | eobn r => exact .inl ⟨_, flow_of_calm (calm_endOfBandAct r.toNat), fun _ => rfl⟩
  | acCoeff r sz => exact .inl ⟨_, flow_of_calm (calm_coeffAct r.toNat sz.toNat), fun _ => rfl⟩
  | decode en => exact .inr ⟨false, en, fun _ => rfl⟩
  | encode en => exact .inr ⟨true, en, fun _ => rfl⟩

theorem exec_ne_refused (i : Instr) (s : State) (r : Refusal) : exec i s ≠ .refused r := by
  rcases exec_cases i with ⟨m, -, h⟩ | ⟨op, en, h⟩ <;> rw [h]
  · exact runAct_ne_refused m s r
  · nofun

theorem State.start_busy {s : State} (h : s.busy = true) (op en : Bool) : s.start op en = s := if_pos h

theorem State.start_idle {s : State} (h : s.busy = false) (op en : Bool) : s.start op en = s.accept op en :=
  if_neg (ne_true_of_eq_false h)

/-! #### The driver and the engine -/

/-- Nothing follows an instruction while a block is in progress or outside a scan (R266). -/
theorem settle_next {s : State} (h : s.sq.phase ≠ .unit ∨ s.sq.block ≠ none) : settle (.next s) = .next s := by
  refine if_neg ?_
  simp only [Bool.and_eq_true, beq_iff_eq, Option.isNone_iff_eq_none]
  exact fun ⟨hp, hb⟩ => h.elim (· hp) (· hb)

/-- After a completed block the driver moves on (R266). -/
theorem settle_advance {s : State} (hp : s.sq.phase = .unit) (hb : s.sq.block = none) :
    settle (.next s) = runAct advance s :=
  if_pos (by simp [hp, hb])

theorem engineTo_settle {s t : State} (h : settle (.next s) = .next t) : EngineTo s t := by
  by_cases hdone : s.sq.phase = .unit ∧ s.sq.block = none
  · rw [settle_advance hdone.1 hdone.2] at h
    exact engineTo_of_flow flow_advance h
  · rw [settle_next (not_and_or.1 hdone)] at h
    cases h
    exact .goesOn (flow_chain.refl s)

theorem settle_ne_refused {o : Host.Outcome State Fault Refusal} (ho : ∀ r, o ≠ .refused r) (r : Refusal) :
    settle o ≠ .refused r := by
  cases o with
  | next s =>
    by_cases hdone : s.sq.phase = .unit ∧ s.sq.block = none
    · rw [settle_advance hdone.1 hdone.2]
      exact runAct_ne_refused _ _ _
    · rw [settle_next (not_and_or.1 hdone)]
      nofun
  | fault f => nofun
  | refused r' => exact absurd rfl (ho r')

theorem engineTo_quietAct {p : Phase} {s t : State} (h : runAct (quietAct p) s = .next t) : EngineTo s t := by
  cases p with
  | entropy => exact engineTo_of_flow flow_endEntropy h
  | interval => exact engineTo_of_flow flow_intervalEntry h
  | frameEnd => exact engineTo_of_flow flow_frameEndAct h
  | output => exact engineTo_of_closes closes_outputAct h
  | encRead => exact engineTo_of_flow flow_encReadAct h
  | encQuant => exact engineTo_of_flow flow_encQuantAct h
  | encCode => exact engineTo_of_flow flow_encCodeAct h
  | encWrite => exact engineTo_of_closes closes_encWriteAct h
  | idle | soi | scan | replaySof | replaySos | unit => exact engineTo_of_flow (flow_pure ()) h

/-- An idle engine reads no instruction. -/
theorem fetch_idle {s : State} (h : s.sq.phase = .idle) : fetch s = .ok (none, s) := by
  simp [fetch, h]

theorem engineRun_idle {s : State} (h : s.sq.phase = .idle) : engineRun exec s = .next s := by
  simp [engineRun, fetch_idle h, h, quietAct, runAct]

/-- Everything a step of the engine can do: it stays within the operation, or an idle register block meets an instruction that
starts one. -/
theorem engineRun_cases {s t : State} (h : engineRun exec s = .next t) :
    EngineTo s t ∨ s.busy = false ∧ s.sq.phase ≠ .idle ∧ ∃ u op en, Flow s u ∧ t = u.accept op en := by
  unfold engineRun at h
  rcases hf : fetch s with (⟨e, u⟩ | f) | ⟨_ | i, u⟩ <;> rw [hf] at h <;> dsimp only at h
  · cases h
    exact .inl (.fails e ((flow_fetch s).2 _ _ hf))
  · cases h
  · exact .inl ((engineTo_quietAct h).after ((flow_fetch s).1 _ _ hf))
  · have hsu : Flow s u := (flow_fetch s).1 _ _ hf
    rcases exec_cases i with ⟨m, hm, hi⟩ | ⟨op, en, hi⟩ <;> rw [hi] at h
    · rcases runAct_cases m u with ⟨v, hv, h'⟩ | ⟨e, v, hv, h'⟩ | ⟨f, -, h'⟩ <;> rw [h'] at h
      · exact .inl (((engineTo_settle h).after ((hm u).1 _ _ hv)).after hsu)
      · rw [settle_next (.inl (by simp [Seq.init]))] at h
        cases h
        exact .inl ((EngineTo.fails e ((hm u).2 _ _ hv)).after hsu)
      · cases h
    · by_cases hb : u.busy = true
      · rw [State.start_busy hb] at h
        exact .inl ((engineTo_settle h).after hsu)
      · rw [Bool.not_eq_true] at hb
        rw [State.start_idle hb, settle_next (.inl (by cases op <;> simp))] at h
        cases h
        refine .inr ⟨?_, fun hidle => ?_, u, op, en, hsu, rfl⟩
        · obtain ⟨-, ⟨-, hstatus, -⟩, -⟩ := hsu
          rwa [State.busy, hstatus] at hb
        · rw [fetch_idle hidle] at hf
          cases hf

theorem engineRun_ne_refused (s : State) (r : Refusal) : engineRun exec s ≠ .refused r := by
  unfold engineRun
  rcases fetch s with (⟨e, u⟩ | f) | ⟨_ | i, u⟩ <;> dsimp only
  · nofun
  · nofun
  · exact runAct_ne_refused _ _ _
  · exact settle_ne_refused (exec_ne_refused i u) r

/-! #### The script -/

/-- The state with the head of the script taken (log 1). -/
def State.rest (s : State) : State := { s with script := s.script.tail }

/-- A word written to CTRL that is an instruction is START (R582). -/
theorem decodeInstr_ctrl {v : Nat} {i : Instr} (h : decodeInstr .ctrl (bytesLE 4 v) = some i) :
    ∃ op en, ∀ s, exec i s = .next (State.start s op en) := by
  have hctrl : ∃ op en : Bool, i = if op then .encode en else .decode en := by
    by_cases hstart : (BitVec.ofNat 8 v).getLsbD 0 = true
    · simp only [decodeInstr, decode, bytesLE, decodeCtrl, if_pos hstart, Except.map] at h
      exact ⟨_, _, (Option.some.inj h).symm⟩
    · simp only [decodeInstr, decode, bytesLE, decodeCtrl, if_neg hstart, Except.map] at h
      cases h
  obtain ⟨op, en, rfl⟩ := hctrl
  exact ⟨op, en, fun s => by cases op <;> rfl⟩

/-- Everything a step can do: a step of the engine, an operation started, or an action of the host. -/
theorem step_cases (s : State) :
    ((s.script = [] ∨ s.script.head? = some .engine) ∧ step s = engineStep exec s.rest) ∨
    (∃ op en, step s = .next (s.rest.start op en)) ∨
    (∃ act, s.script.head? = some act ∧ step s = .next (s.rest.hostAct act)) := by
  unfold step stepOf
  cases hs : s.script with
  | nil =>
    have hrest : s.rest = s := by rw [State.rest, hs, List.tail_nil, ← hs]
    exact .inl ⟨.inl rfl, by rw [hrest]⟩
  | cons act acts =>
    have hrest : s.rest = { s with script := acts } := by rw [State.rest, hs, List.tail_cons]
    rw [hrest]
    cases act with
    | engine => exact .inl ⟨.inr rfl, rfl⟩
    | write addr width val =>
      dsimp only
      cases hi : s.startWord (.write addr width val) with
      | none => exact .inr (.inr ⟨_, rfl, rfl⟩)
      | some i =>
        simp only [State.startWord] at hi
        split at hi
        · obtain ⟨op, en, hexec⟩ := decodeInstr_ctrl hi
          exact .inr (.inl ⟨op, en, hexec _⟩)
        · cases hi
    | read addr width => exact .inr (.inr ⟨_, rfl, rfl⟩)
    | reset => exact .inr (.inr ⟨_, rfl, rfl⟩)

end Sys2Proof.Machine

namespace Sys2Proof.Machine

/-! ### What an action of the host can do (R34, R108, R111) -/

/-- Host memory, and the ranges of a breach, keep their canonical form; nothing else changes. -/
def HostStored (s t : State) : Prop :=
  ∃ m b, t = { s with mem := m, breach := b } ∧ (s.mem.wf = true → m.wf = true) ∧
    (rangesFrom 0 s.breach.out = true → rangesFrom 0 b.out = true)

theorem hostStored_refl (s : State) : HostStored s s := ⟨s.mem, s.breach, rfl, id, id⟩

theorem HostStored.trans {s t u : State} (h : HostStored s t) (h' : HostStored t u) : HostStored s u := by
  obtain ⟨m, b, rfl, hm, hb⟩ := h
  obtain ⟨m', b', rfl, hm', hb'⟩ := h'
  exact ⟨m', b', rfl, hm' ∘ hm, hb' ∘ hb⟩

theorem hostStored_hostStore (s : State) (a : Nat) (v : Byte) : HostStored s (s.hostStore a v) := by
  unfold State.hostStore
  split
  · refine ⟨_, _, rfl, fun h => Memory.forget_wf h a 1, fun h => ?_⟩
    unfold State.breached
    dsimp only
    split
    · exact rangesFrom_addRange h (Nat.zero_le a) (Nat.lt_succ_self a)
    · exact h
  · exact ⟨_, _, rfl, fun h => Memory.write_wf h a v, id⟩

theorem hostStored_hostStoreList : ∀ (bs : List Byte) (s : State) (a : Nat), HostStored s (s.hostStoreList a bs)
  | [], s, _ => hostStored_refl s
  | b :: bs, s, a => (hostStored_hostStore s a b).trans (hostStored_hostStoreList bs _ (a + 1))

/-- A host write reaches one register, or memory. -/
theorem hostWrite_cases (s : State) (addr : Word) (width : Nat) (val : Word) :
    (∃ i, s.hostWrite addr width val = { s with regs := s.regs.writeWord s.busy i val }) ∨
    HostStored s (s.hostWrite addr width val) := by
  unfold State.hostWrite
  split
  · split
    · exact .inl ⟨_, rfl⟩
    · exact .inr (hostStored_refl s)
  · exact .inr (hostStored_hostStoreList _ s _)

theorem hostLoad_draws (s : State) (a : Nat) : ∃ k, (s.hostLoad a).2 = { s with draws := k } := by
  unfold State.hostLoad State.load
  split
  · exact ⟨_, rfl⟩
  · split
    · exact ⟨_, rfl⟩
    · exact ⟨s.draws, rfl⟩

theorem hostLoadLE_draws : ∀ (n : Nat) (s : State) (a : Nat), ∃ k, (s.hostLoadLE n a).2 = { s with draws := k }
  | 0, s, _ => ⟨s.draws, rfl⟩
  | n + 1, s, a => by
    obtain ⟨k, hk⟩ := hostLoad_draws s a
    obtain ⟨k', hk'⟩ := hostLoadLE_draws n (s.hostLoad a).2 (a + 1)
    refine ⟨k', ?_⟩
    rw [State.hostLoadLE]
    dsimp only
    rw [hk', hk]

/-- A host read changes RDATA, and draws where content is unspecified. -/
theorem hostRead_draws (s : State) (addr : Word) (width : Nat) :
    ∃ k w, s.hostRead addr width = { s with draws := k, rdata := w } := by
  unfold State.hostRead
  split
  · exact ⟨s.draws, _, rfl⟩
  · obtain ⟨k, hk⟩ := hostLoadLE_draws (min width 4) s addr.toNat
    exact ⟨k, _, by dsimp only; rw [hk]⟩

/-- While BUSY a register write reaches STATUS alone (R34, R35). -/
theorem writeWord_busy (r : HostRegs) (v : Word) : ∀ {i : Nat}, i ≠ 1 → r.writeWord true i v = r
  | 0, _ | 2, _ | 3, _ | 4, _ | 5, _ | 6, _ | 7, _ | 8, _ | 9, _ | 10, _ | 11, _ | _ + 12, _ => rfl
  | 1, h => absurd rfl h

/-! ### The configuration (R34, R548) -/

/-- What a step keeps of the parameters, the script, a recorded Overflow and the configuration registers. -/
def Keeps (s t : State) : Prop :=
  t.params = s.params ∧ t.script = s.script ∧ (s.overflow = true → t.overflow = true) ∧ t.regs.config = s.regs.config

theorem keeps_chain : Chain Keeps where
  refl s := ⟨rfl, rfl, id, rfl⟩
  trans := by
    rintro s t u ⟨hparams, hscript, hoverflow, hconfig⟩ ⟨hparams', hscript', hoverflow', hconfig'⟩
    exact ⟨hparams'.trans hparams, hscript'.trans hscript, hoverflow' ∘ hoverflow, hconfig'.trans hconfig⟩

theorem keeps_of_flow {s t : State} (h : Flow s t) : Keeps s t := by
  obtain ⟨⟨hparams, hscript, -, -⟩, ⟨-, -, -, h1, h2, h3, h4, h5, h6, h7⟩, hoverflow, -⟩ := h
  exact ⟨hparams, hscript, hoverflow, by simp only [HostRegs.config, h1, h2, h3, h4, h5, h6, h7]⟩

theorem keeps_succeed (s : State) : Keeps s (succeed s) := ⟨rfl, rfl, id, rfl⟩

theorem keeps_failEntry (e : ErrKind) (s : State) : Keeps s (failEntry e s) := ⟨rfl, rfl, id, rfl⟩

theorem keeps_accept (s : State) (op en : Bool) : Keeps s (s.accept op en) := ⟨rfl, rfl, id, rfl⟩

theorem keeps_start (s : State) (op en : Bool) : Keeps s (s.start op en) := by
  cases hb : s.busy with
  | true => rw [State.start_busy hb]; exact keeps_chain.refl s
  | false => rw [State.start_idle hb]; exact keeps_accept s op en

theorem keeps_engineTo {s t : State} (h : EngineTo s t) : Keeps s t := by
  cases h with
  | goesOn h => exact keeps_of_flow h
  | succeeds h => exact keeps_chain.trans (keeps_of_flow h) (keeps_succeed _)
  | fails e h => exact keeps_chain.trans (keeps_of_flow h) (keeps_failEntry e _)

theorem keeps_engineStep {s t : State} (h : engineStep exec s = .next t) : Keeps s t := by
  refine keeps_chain.trans (keeps_of_flow (flow_refresh s)) ?_
  rcases engineRun_cases h with hto | ⟨-, -, u, op, en, hu, rfl⟩
  · exact keeps_engineTo hto
  · exact keeps_chain.trans (keeps_of_flow hu) (keeps_accept u op en)

/-- An action of the host keeps the parameters, the script and a recorded Overflow. -/
theorem hostAct_kept (s : State) (act : HostAct) :
    (s.hostAct act).params = s.params ∧ (s.hostAct act).script = s.script ∧ (s.hostAct act).overflow = s.overflow := by
  cases act with
  | engine => exact ⟨rfl, rfl, rfl⟩
  | write addr width val =>
    rcases hostWrite_cases s addr width val with ⟨i, h⟩ | ⟨m, b, h, -, -⟩ <;> rw [State.hostAct, h] <;> exact ⟨rfl, rfl, rfl⟩
  | read addr width =>
    obtain ⟨k, w, h⟩ := hostRead_draws s addr width
    rw [State.hostAct, h]
    exact ⟨rfl, rfl, rfl⟩
  | reset => exact ⟨rfl, rfl, rfl⟩

/-- While BUSY nothing but a hardware reset changes a configuration register (R34). -/
theorem hostAct_config {s : State} (hb : s.busy = true) {act : HostAct} (hr : act ≠ .reset) :
    (s.hostAct act).regs.config = s.regs.config := by
  cases act with
  | engine => rfl
  | write addr width val =>
    rcases hostWrite_cases s addr width val with ⟨i, h⟩ | ⟨m, b, h, -, -⟩ <;> rw [State.hostAct, h]
    by_cases hi : i = 1
    · rw [hi]
      rfl
    · rw [hb, writeWord_busy _ _ hi]
  | read addr width =>
    obtain ⟨k, w, h⟩ := hostRead_draws s addr width
    rw [State.hostAct, h]
  | reset => exact absurd rfl hr

/-- Settles O60, by what a step can do: the engine and START keep the configuration, an action of the host as its registers allow. -/
theorem everyStepKeepsTheConfiguration : Obligations.EveryStepKeepsTheConfiguration := by
  intro s
  rcases step_cases s with ⟨-, h⟩ | ⟨op, en, h⟩ | ⟨act, hact, h⟩ <;> rw [h]
  · refine ⟨engineRun_ne_refused _, fun t ht => ?_⟩
    obtain ⟨hparams, hscript, hoverflow, hconfig⟩ := keeps_engineStep ht
    exact ⟨hparams, hscript, hoverflow, fun _ _ => hconfig⟩
  · refine ⟨nofun, fun t ht => ?_⟩
    cases ht
    obtain ⟨hparams, hscript, hoverflow, hconfig⟩ := keeps_start s.rest op en
    exact ⟨hparams, hscript, hoverflow, fun _ _ => hconfig⟩
  · refine ⟨nofun, fun t ht => ?_⟩
    cases ht
    obtain ⟨hparams, hscript, hoverflow⟩ := hostAct_kept s.rest act
    refine ⟨hparams, hscript, fun ho => hoverflow.trans ho, fun hb hr => hostAct_config (s := s.rest) hb fun he => ?_⟩
    exact hr (he ▸ hact)

/-! ### The invariant (R32, R35, R540, R583, R587, R591) -/

/-- Settles O57: the registers and the memory of reset, by computation. -/
theorem resetMeetsTheInvariant : Obligations.ResetMeetsTheInvariant := by
  refine ⟨reset_mem_wf, rfl, ?_, ?_⟩
  · decide
  · decide

theorem statusWord_ok (b d e : Bool) : statusWord b d e &&& 0xFFFFFFF8 = 0 := by
  cases b <;> cases d <;> cases e <;> rfl

theorem ctrlWord_ok (op en : Bool) : ctrlWord op en &&& 0xFFFFFFF9 = 0 := by
  cases op <;> cases en <;> rfl

theorem ErrKind.code_le (e : ErrKind) : e.code.toNat ≤ 4 := by
  cases e <;> decide

/-- The end of an operation leaves the engine idle, not BUSY, and nothing breached. -/
theorem inv_finish {s : State} (hm : s.mem.wf = true) (hr : s.regs.ok) (failed : Bool) : (s.finish failed).Inv := by
  obtain ⟨hctrl, -, hcode, hwidth, hheight, hinfo⟩ := hr
  refine ⟨hm, rfl, ⟨hctrl, statusWord_ok _ _ _, hcode, hwidth, hheight, hinfo⟩, ?_⟩
  simp [State.lifecycle, State.busy, Seq.init]

theorem inv_succeed {s : State} (hm : s.mem.wf = true) (hr : s.regs.ok) : (succeed s).Inv := by
  obtain ⟨hctrl, hstatus, -, hwidth, hheight, hinfo⟩ := hr
  exact inv_finish (s := { s with regs := { s.regs with errcode := 0 } }) hm
    ⟨hctrl, hstatus, Nat.zero_le _, hwidth, hheight, hinfo⟩ false

theorem failRegs_ok (e : ErrKind) {r : HostRegs} (hr : r.ok) : (failRegs e r).ok := by
  obtain ⟨hctrl, hstatus, -, hwidth, hheight, -⟩ := hr
  have hclear : ∀ w : Word, w.toNat < 65536 → (if r.ctrl.getLsbD 1 then w else 0).toNat < 65536 := by
    intro w hw
    split
    · exact hw
    · decide
  exact ⟨hctrl, hstatus, e.code_le, hclear _ hwidth, hclear _ hheight, BitVec.zero_and⟩

theorem inv_failEntry (e : ErrKind) {s : State} (hm : s.mem.wf = true) (hr : s.regs.ok) : (failEntry e s).Inv :=
  inv_finish (Memory.forget_wf (State.spill_mem_wf hm) _ _) (failRegs_ok e hr) true

theorem inv_accept {s : State} (h : s.Inv) (op en : Bool) : (s.accept op en).Inv := by
  obtain ⟨hm, -, ⟨-, -, -, hwidth, hheight, hinfo⟩, -⟩ := h
  refine ⟨hm, rfl, ⟨ctrlWord_ok op en, statusWord_ok _ _ _, Nat.zero_le _, hwidth, hheight, ?_⟩, ?_⟩
  · cases op
    · exact BitVec.zero_and
    · exact hinfo
  · cases op <;> simp [State.lifecycle, State.busy, State.done, State.err, HostRegs.start]

theorem inv_start {s : State} (h : s.Inv) (op en : Bool) : (s.start op en).Inv := by
  cases hb : s.busy with
  | true => rwa [State.start_busy hb]
  | false => rw [State.start_idle hb]; exact inv_accept h op en

/-- A flow within an operation keeps the invariant: it keeps STATUS, and a phase that is not idle. -/
theorem inv_of_flow {s u : State} (h : s.Inv) (hp : s.sq.phase ≠ .idle) (hsu : Flow s u) : u.Inv := by
  obtain ⟨hm, hout, hr, hbusy, hlow⟩ := h
  obtain ⟨⟨-, -, -, hbreach⟩, ⟨-, hstatus, -⟩, -, hok, hphase, hmem⟩ := hsu
  refine ⟨(hmem hm).1, by rwa [hbreach], hok hr, ?_, ?_⟩ <;> simp only [State.busy, State.done, State.err, hstatus]
  · exact iff_of_true (hbusy.2 hp) (hphase hp)
  · exact hlow

theorem inv_engineTo {s t : State} (h : s.Inv) (hp : s.sq.phase ≠ .idle) (hto : EngineTo s t) : t.Inv := by
  cases hto with
  | goesOn hsu => exact inv_of_flow h hp hsu
  | succeeds hsu =>
    obtain ⟨hm, -, hr, -⟩ := inv_of_flow h hp hsu
    exact inv_succeed hm hr
  | fails e hsu =>
    obtain ⟨hm, -, hr, -⟩ := inv_of_flow h hp hsu
    exact inv_failEntry e hm hr

theorem inv_refresh {s : State} (h : s.Inv) : s.refresh.Inv := by
  simpa only [State.Inv, State.lifecycle, State.busy, State.done, State.err, State.refresh_mem, State.refresh_breach,
    State.refresh_regs, State.refresh_sq] using h

theorem inv_engineStep {s t : State} (h : s.Inv) (hst : engineStep exec s = .next t) : t.Inv := by
  have hinv := inv_refresh h
  by_cases hp : s.refresh.sq.phase = .idle
  · rw [engineStep, engineRun_idle hp] at hst
    cases hst
    exact hinv
  · rcases engineRun_cases hst with hto | ⟨hb, -⟩
    · exact inv_engineTo hinv hp hto
    · obtain ⟨-, -, -, hbusy, -⟩ := hinv
      exact absurd (hbusy.2 hp) (ne_true_of_eq_false hb)

/-! #### Actions of the host -/

theorem low16_lt (v : Word) : (low16 v).toNat < 65536 := by
  rw [low16, BitVec.toNat_and]
  exact lt_of_le_of_lt Nat.and_le_right (by decide)

/-- A register write leaves the reserved bits 0. -/
theorem writeWord_ok {r : HostRegs} (hr : r.ok) (busy : Bool) (v : Word) : ∀ i, (r.writeWord busy i v).ok := by
  have hr' := hr
  obtain ⟨hctrl, hstatus, hcode, hwidth, hheight, hinfo⟩ := hr'
  intro i
  match i with
  | 0 =>
    cases busy with
    | true => exact hr
    | false => exact ⟨ctrlWord_ok _ _, hstatus, hcode, hwidth, hheight, hinfo⟩
  | 1 =>
    refine ⟨hctrl, ?_, hcode, hwidth, hheight, hinfo⟩
    calc r.status &&& ~~~(v &&& 0x6) &&& 0xFFFFFFF8
        = r.status &&& 0xFFFFFFF8 &&& ~~~(v &&& 0x6) := by rw [BitVec.and_assoc, BitVec.and_comm (~~~_), ← BitVec.and_assoc]
      _ = 0 := by rw [hstatus]; exact BitVec.zero_and
  | 10 =>
    cases busy with
    | true => exact hr
    | false => exact ⟨hctrl, hstatus, hcode, low16_lt v, hheight, hinfo⟩
  | 11 =>
    cases busy with
    | true => exact hr
    | false => exact ⟨hctrl, hstatus, hcode, hwidth, low16_lt v, hinfo⟩
  | 3 | 4 | 5 | 6 | 7 | 8 | 9 => cases busy <;> exact hr
  | 2 | _ + 12 => exact hr

/-- A register write clears bits of STATUS at most, and not BUSY (R35). -/
theorem writeWord_status (r : HostRegs) (busy : Bool) (v : Word) : ∀ i,
    (r.writeWord busy i v).status.getLsbD 0 = r.status.getLsbD 0 ∧
    ∀ k, r.status.getLsbD k = false → (r.writeWord busy i v).status.getLsbD k = false := by
  intro i
  match i with
  | 1 =>
    refine ⟨?_, fun k hk => ?_⟩
    · simp [HostRegs.writeWord]
    · simp [HostRegs.writeWord, hk]
  | 0 | 3 | 4 | 5 | 6 | 7 | 8 | 9 | 10 | 11 => cases busy <;> exact ⟨rfl, fun _ => id⟩
  | 2 | _ + 12 => exact ⟨rfl, fun _ => id⟩

theorem inv_writeWord {s : State} (h : s.Inv) (busy : Bool) (i : Nat) (v : Word) :
    State.Inv { s with regs := s.regs.writeWord busy i v } := by
  obtain ⟨hm, hout, hr, hbusy, hlow⟩ := h
  obtain ⟨hkept, hcleared⟩ := writeWord_status s.regs busy v i
  refine ⟨hm, hout, writeWord_ok hr busy v i, ?_, fun hb => ?_⟩
  · rwa [State.busy, hkept]
  · obtain ⟨hdone, herr⟩ := hlow (hkept.symm.trans hb)
    exact ⟨hcleared 1 hdone, hcleared 2 herr⟩

theorem inv_hostStored {s t : State} (h : s.Inv) (hst : HostStored s t) : t.Inv := by
  obtain ⟨m, b, rfl, hm, hb⟩ := hst
  obtain ⟨hmem, hout, hr, hl⟩ := h
  exact ⟨hm hmem, hb hout, hr, hl⟩

theorem inv_hardReset {s : State} (h : s.Inv) : s.hardReset.Inv := by
  obtain ⟨-, -, hregs, hlife⟩ := resetMeetsTheInvariant
  refine ⟨?_, rfl, hregs, hlife⟩
  unfold State.hardReset
  dsimp only
  split
  · exact Memory.forget_wf (Memory.forget_wf h.1 _ _) _ _
  · exact h.1

theorem inv_hostAct {s : State} (h : s.Inv) (act : HostAct) : (s.hostAct act).Inv := by
  cases act with
  | engine => exact h
  | write addr width val =>
    rcases hostWrite_cases s addr width val with ⟨i, hw⟩ | hstored
    · rw [State.hostAct, hw]
      exact inv_writeWord h s.busy i val
    · exact inv_hostStored h hstored
  | read addr width =>
    obtain ⟨k, w, hr⟩ := hostRead_draws s addr width
    rw [State.hostAct, hr]
    exact h
  | reset => exact inv_hardReset h

/-- Settles O58, by what a step can do: a step of the engine, a START, an action of the host. -/
theorem everyStepKeepsTheInvariant : Obligations.EveryStepKeepsTheInvariant := by
  intro s t h hst
  have hrest : s.rest.Inv := h
  rcases step_cases s with ⟨-, hs⟩ | ⟨op, en, hs⟩ | ⟨act, -, hs⟩ <;> rw [hs] at hst
  · exact inv_engineStep hrest hst
  · cases hst
    exact inv_start hrest op en
  · cases hst
    exact inv_hostAct hrest act

end Sys2Proof.Machine

namespace Sys2Proof.Machine

/-! ### Reading entries of arrays -/

theorem vget_replicate {α : Type} (n : Nat) (a : α) (i : Nat) : vget (Vector.replicate n a) i a = a := by
  unfold vget
  by_cases h : i < n <;> simp [h]

theorem vget_ofFn {α : Type} {n : Nat} (f : Fin n → α) (d : α) {i : Nat} (h : i < n) : vget (Vector.ofFn f) i d = f ⟨i, h⟩ := by
  simp [vget, h]

theorem lget_replicate {α : Type} (n : Nat) (a : α) (i : Nat) : lget (List.replicate n a) i a = a := by
  unfold lget
  by_cases h : i < n <;> simp [h]

/-! ### Blocks lie in their plane (R45, R250-R253) -/

/-- `ceilDiv a b` is the least number of `b`s that cover `a`. -/
theorem ceilDiv_le_iff {a b q : Nat} (hb : 0 < b) : ceilDiv a b ≤ q ↔ a ≤ q * b := by
  rw [ceilDiv, ← Nat.lt_succ_iff, Nat.div_lt_iff_lt_mul hb, Nat.succ_mul]
  omega

theorem le_ceilDiv_mul {a b : Nat} (hb : 0 < b) : a ≤ ceilDiv a b * b := (ceilDiv_le_iff hb).1 (le_refl _)

/-- The blocks that cover a component's samples fit the plane of whole units (R39, R45, R251). -/
theorem soloBlocks_le {x h hmax : Nat} (hb : 0 < hmax) :
    ceilDiv (ceilDiv (x * h) hmax) 8 ≤ ceilDiv x (8 * hmax) * h := by
  rw [ceilDiv_le_iff (by decide), ceilDiv_le_iff hb]
  calc x * h ≤ ceilDiv x (8 * hmax) * (8 * hmax) * h := Nat.mul_le_mul_right h (le_ceilDiv_mul (by omega))
    _ = ceilDiv x (8 * hmax) * h * 8 * hmax := by ring

/-- Block `d` of the `h` blocks of unit `m` is one of the `h * n` blocks of `n` units. -/
theorem unitBlock_lt {m n h d : Nat} (hm : m < n) (hd : d < h) : m * h + d < n * h :=
  calc m * h + d < m * h + h := Nat.add_lt_add_left hd _
    _ = (m + 1) * h := (Nat.succ_mul m h).symm
    _ ≤ n * h := Nat.mul_le_mul_right h hm

/-- A unit of a raster lies in one of its columns and one of its rows. -/
theorem unit_in_raster {u cols rows : Nat} (h : u < cols * rows) : u % cols < cols ∧ u / cols < rows := by
  have hcols : 0 < cols := Nat.pos_of_mul_pos_right (Nat.zero_lt_of_lt h)
  exact ⟨Nat.mod_lt _ hcols, Nat.div_lt_of_lt_mul h⟩

theorem mem_mcuEntries_interleaved {s : State} (hi : s.sc.interleaved = true) {e : McuEntry} (he : e ∈ s.mcuEntries) :
    e.dx < s.fr.hOf (s.sc.compOf e.j) ∧ e.dy < s.fr.vOf (s.sc.compOf e.j) := by
  rw [State.mcuEntries, if_pos hi] at he
  simp only [mcuEntriesOf, List.mem_flatMap, List.mem_map, List.mem_range] at he
  obtain ⟨j, -, dy, hdy, dx, hdx, rfl⟩ := he
  exact ⟨hdx, hdy⟩

theorem mem_mcuEntries_solo {s : State} (hi : s.sc.interleaved = false) {e : McuEntry} (he : e ∈ s.mcuEntries) : e = ⟨0, 0, 0⟩ := by
  rw [State.mcuEntries, if_neg (ne_true_of_eq_false hi)] at he
  exact List.mem_singleton.1 he

/-- Settles O33: an interleaved unit has its entries' blocks in its own columns and rows; a unit of one component is a block of its own. -/
theorem blocksLieInTheirPlane : Obligations.BlocksLieInTheirPlane := by
  intro s e hdct hhmax hvmax he hu
  cases hi : s.sc.interleaved with
  | true =>
    obtain ⟨hdx, hdy⟩ := mem_mcuEntries_interleaved hi he
    simp only [State.unitCount, hi, if_true] at hu
    obtain ⟨hx, hy⟩ := unit_in_raster hu
    simp only [State.addressOf, State.unitCols, hi, if_true]
    simp only [Frame.mcuCols, Frame.mcuRows, hdct, Bool.false_eq_true, if_false] at hx hy ⊢
    exact ⟨trivial, unitBlock_lt hx hdx, unitBlock_lt hy hdy⟩
  | false =>
    obtain rfl := mem_mcuEntries_solo hi he
    simp only [State.unitCount, hi, Bool.false_eq_true, if_false] at hu
    obtain ⟨hx, hy⟩ := unit_in_raster hu
    simp only [State.addressOf, State.unitCols, hi, Bool.false_eq_true, if_false]
    simp only [Frame.soloCols, Frame.soloRows, hdct, Bool.false_eq_true, if_false] at hx hy ⊢
    exact ⟨trivial, lt_of_lt_of_le hx (soloBlocks_le hhmax), lt_of_lt_of_le hy (soloBlocks_le hvmax)⟩

end Sys2Proof.Machine

namespace Sys2Proof.Machine

/-! ### The driver (R266, R267) -/

/-- The interval's bytes are consumed, as the exit check asks (R267): of a Huffman interval all; of an arithmetic one where
ARITH_TRAILING rejects. -/
def State.consumed (s : State) : Prop :=
  if s.fr.ft.getLsbD 3 then s.params.arithTrailing = .ignore ∨ s.rd.segEnd ≤ s.rd.bp else s.rd.bp = s.rd.segEnd

theorem consumed_huffman {s : State} (ha : s.fr.isArithmetic = false) : s.consumed ↔ s.rd.bp = s.rd.segEnd :=
  iff_of_eq (if_neg (ne_true_of_eq_false ha))

theorem consumed_arithmetic {s : State} (ha : s.fr.isArithmetic = true) :
    s.consumed ↔ s.params.arithTrailing = .ignore ∨ s.rd.segEnd ≤ s.rd.bp :=
  iff_of_eq (if_pos ha)

theorem exitCheck_ok {s : State} (h : s.consumed) : exitCheck s = .ok ((), s) := by
  cases ha : s.fr.isArithmetic with
  | false =>
    rw [consumed_huffman ha] at h
    simp [exitCheck, ha, h]
  | true =>
    rw [consumed_arithmetic ha] at h
    cases ht : s.params.arithTrailing with
    | ignore => simp [exitCheck, ha, ht]
    | reject =>
      have hend : s.rd.segEnd ≤ s.rd.bp := h.resolve_left (by simp [ht])
      simp [exitCheck, ha, ht, hend]

theorem exitCheck_raise {s : State} (h : ¬ s.consumed) : exitCheck s = .error (.raise .formatError s) := by
  cases ha : s.fr.isArithmetic with
  | false =>
    rw [consumed_huffman ha] at h
    simp [exitCheck, ha, h]
  | true =>
    rw [consumed_arithmetic ha, not_or] at h
    obtain ⟨hreject, hend⟩ := h
    cases ht : s.params.arithTrailing with
    | ignore => exact absurd ht hreject
    | reject => simp [exitCheck, ha, ht, hend]

/-- The next descriptor entry of the unit. -/
theorem advance_entry {s : State} (h : s.sc.entry + 1 < s.sc.mcud.length) :
    advance s = .ok ((), { s with sc := { s.sc with entry := s.sc.entry + 1 } }) := by
  simp [advance, h]

/-- The next unit of the interval. -/
theorem advance_unit {s : State} (h : s.sc.mcud.length ≤ s.sc.entry + 1) (hu : s.sc.unit + 1 < s.endUnit) :
    advance s = .ok ((), { s with sc := { s.sc with entry := 0, unit := s.sc.unit + 1 } }) := by
  simp [advance, Nat.not_lt.2 h, hu]

/-- Behind the interval's last block: the exit check, then the next interval or the end of the scan. -/
theorem advance_exit {s : State} (h : s.sc.mcud.length ≤ s.sc.entry + 1) (hu : s.endUnit ≤ s.sc.unit + 1) :
    advance s = (exitCheck >>= fun _ =>
      if s.sc.intv + 1 < s.sc.ni then
        update fun s => { s with sc := { s.sc with intv := s.sc.intv + 1 }, sq := { s.sq with phase := .interval } }
      else scanEnd : Act Unit) s := by
  simp [advance, Nat.not_lt.2 h, Nat.not_lt.2 hu]

theorem scanEnd_next {s : State} {f : FrameRec} (hf : s.frameRec = some f) (h : s.sq.scanIx + 1 < f.scans.length) :
    scanEnd s = .ok ((), { s with sq := { s.sq with scanIx := s.sq.scanIx + 1, phase := .replaySos } }) := by
  simp [scanEnd, hf, h]

theorem scanEnd_last {s : State} {f : FrameRec} (hf : s.frameRec = some f) (h : f.scans.length ≤ s.sq.scanIx + 1) :
    scanEnd s = .ok ((), { s with sq := { s.sq with phase := .frameEnd } }) := by
  simp [scanEnd, hf, Nat.not_lt.2 h]

/-! ### The entry of an interval (R265, R342) -/

/-- The step that enters an interval. -/
theorem step_interval {s : State} {r : ScanRec} {iv : Interval} (hs : s.script = []) (hu : s.undisturbed)
    (hp : s.sq.phase = .interval) (hr : s.scanRec = some r) (hiv : r.intervals[s.sc.intv]? = some iv) :
    step s = .next (s.enterInterval iv) := by
  have hfetch : fetch s = .ok (none, s) := by simp [fetch, hp]
  have hentry : intervalEntry s = .ok ((), s.enterInterval iv) := by simp [intervalEntry, hr, hiv]
  simp only [step, stepOf, hs, engineStep, State.refresh_kept hu, engineRun, hfetch, hp, quietAct, runAct_ok hentry]

theorem freshPred_zero (f : Frame) (c : Nat) :
    vget f.freshPred.pred c 0 = 0 ∧ vget f.freshPred.dcCtx c 0 = 0 ∧ (∀ r, vget (f.freshPred.leftRow c) r 0 = 0) ∧
      ∀ x, lget (vget f.freshPred.ldb c []) x 0 = 0 := by
  refine ⟨vget_replicate 4 0 c, vget_replicate 4 0 c, fun r => ?_, fun x => ?_⟩
  · have hrow : f.freshPred.leftRow c = Vector.replicate 4 0 := vget_replicate 4 _ c
    rw [hrow, vget_replicate]
  · by_cases hc : c < 4
    · rw [Frame.freshPred, vget_ofFn _ _ hc]
      split
      · exact lget_replicate _ _ _
      · rfl
    · have hout : vget f.freshPred.ldb c [] = [] := by simp [vget, hc]
      rw [hout]
      rfl

theorem binByte_init (bin : Bin) : Stats.init.binByte bin = 0 := by
  cases bin with
  | dc t i => simp only [Stats.binByte, Stats.init, vget_replicate]
  | ac t i => simp only [Stats.binByte, Stats.init, vget_replicate]
  | ll t i => simp only [Stats.binByte, Stats.init, vget_replicate, cellsRead]
  | fixed => rfl

/-- Settles O9: the driver by where the block stands in its unit, interval and scan; the entry of an interval by what its step leaves. -/
theorem driverAfterABlock : Obligations.DriverAfterABlock := by
  refine ⟨fun s => ⟨settle_next, fun hp hb => ⟨fun he => ?_, fun he hu => ?_, fun he hu => ⟨fun hc => ?_, fun hc hi => ?_,
    fun hc hi f hf => ⟨fun hn => ?_, fun hl => ?_⟩⟩⟩⟩, fun s r iv hs hu hp hr hiv => ?_⟩
  · rw [settle_advance hp hb, runAct_ok (advance_entry he)]
  · rw [settle_advance hp hb, runAct_ok (advance_unit he hu)]
  · rw [settle_advance hp hb]
    exact runAct_raise (by rw [advance_exit he hu, act_bind, exitCheck_raise hc])
  · rw [settle_advance hp hb]
    exact runAct_ok (by simp only [advance_exit he hu, act_bind, exitCheck_ok hc, if_pos hi, act_update])
  · rw [settle_advance hp hb]
    exact runAct_ok (by simp only [advance_exit he hu, act_bind, exitCheck_ok hc, if_neg (Nat.not_lt.2 hi), scanEnd_next hf hn])
  · rw [settle_advance hp hb]
    exact runAct_ok (by simp only [advance_exit he hu, act_bind, exitCheck_ok hc, if_neg (Nat.not_lt.2 hi), scanEnd_last hf hl])
  · exact ⟨s.enterInterval iv, step_interval hs hu hp hr hiv, rfl, rfl, rfl, freshPred_zero s.fr, rfl, rfl, binByte_init,
      fun ha => if_pos ha, fun ha => if_neg (ne_true_of_eq_false ha)⟩

/-! ### Register accesses while BUSY (R34) -/

/-- An access to an aligned register word (R108). -/
theorem wordAccess_aligned {off : Nat} (h : off % 4 = 0) : wordAccess off 4 = true := by
  simp [wordAccess, h]

theorem step_read {s : State} {addr : Word} {width : Nat} {rest : List HostAct} (h : s.script = .read addr width :: rest) :
    step s = .next (State.hostRead { s with script := rest } addr width) := by
  simp only [step, stepOf, h]
  rfl

/-- A write while BUSY starts nothing: START is ignored (R34), any other write is an action of the host. -/
theorem step_write_busy {s : State} (hb : s.busy = true) {addr v : Word} {width : Nat} {rest : List HostAct}
    (h : s.script = .write addr width v :: rest) :
    step s = .next { s with script := rest } ∨ step s = .next (State.hostWrite { s with script := rest } addr width v) := by
  simp only [step, stepOf, h]
  cases hi : s.startWord (.write addr width v) with
  | none => exact .inr rfl
  | some i =>
    simp only [State.startWord] at hi
    split at hi
    · obtain ⟨op, en, hexec⟩ := decodeInstr_ctrl hi
      refine .inl ?_
      dsimp only
      rw [hexec, State.start_busy]
      exact hb
    · cases hi

theorem hostWrite_register {s : State} {addr : Word} {off : Nat} (ho : s.regOffset addr = some off) (ha : off % 4 = 0) (v : Word) :
    s.hostWrite addr 4 v = { s with regs := s.regs.writeWord s.busy (off / 4) v } := by
  simp only [State.hostWrite, ho, wordAccess_aligned ha, if_true]

theorem hostRead_register {s : State} {addr : Word} {off : Nat} (ho : s.regOffset addr = some off) (ha : off % 4 = 0) :
    s.hostRead addr 4 = { s with rdata := s.regs.word (off / 4) } := by
  simp only [State.hostRead, ho, wordAccess_aligned ha, if_true]

/-- Settles O11: a write of START is ignored by its own meaning, another by the register's; a read takes the register's word. -/
theorem busyWritesAreIgnored : Obligations.BusyWritesAreIgnored := by
  intro s addr off rest ho ha
  refine ⟨fun v hb hmem h => ?_, fun h => ?_⟩
  · rcases step_write_busy hb h with hstep | hstep <;> rw [hstep]
    have hne : off / 4 ≠ 1 := fun he => by simp [he] at hmem
    have hbusy : State.busy { s with script := rest } = true := hb
    rw [hostWrite_register (s := { s with script := rest }) ho ha, hbusy, writeWord_busy _ _ hne]
  · rw [step_read h, hostRead_register (s := { s with script := rest }) ho ha]

/-! ### START when idle (R583) -/

theorem rangesMeet_iff (b l b' l' : Word) : rangesMeet b l b' l' = true ↔
    ∃ a, (b.toNat ≤ a ∧ a < b.toNat + l.toNat) ∧ (b'.toNat ≤ a ∧ a < b'.toNat + l'.toNat) := by
  have hzero : ∀ w : Word, (w != 0) = true ↔ 0 < w.toNat := by
    intro w
    rw [bne_iff_ne, Nat.pos_iff_ne_zero, not_iff_not, BitVec.toNat_eq]
    rfl
  simp only [rangesMeet, Bool.and_eq_true, decide_eq_true_eq, hzero]
  constructor
  · rintro ⟨⟨⟨h1, h2⟩, h3⟩, h4⟩
    exact ⟨max b.toNat b'.toNat, by omega, by omega⟩
  · rintro ⟨a, h1, h2⟩
    omega

/-- The arena shares an address with the input or the output (R591). -/
theorem arenaShared_iff (s : State) : s.regs.arenaShared = true ↔
    ∃ a, s.inArena a = true ∧ (s.inInput a = true ∨ s.inOutput a = true) := by
  simp only [HostRegs.arenaShared, Bool.or_eq_true, rangesMeet_iff, State.inArena, State.inInput, State.inOutput,
    Bool.and_eq_true, decide_eq_true_eq, ← exists_or, ← and_or_left]

/-- Settles O14: START when idle is accepted, and what it leaves is read off field by field. -/
theorem startEffects : Obligations.StartEffects := by
  intro s op en hb
  have hexec : exec (if op then .encode en else .decode en) s = .next (s.accept op en) := by
    rw [← State.start_idle hb]
    cases op <;> rfl
  have hslot : ∀ cls i, (s.accept op en).arena.slot cls i = none := by
    intro cls i
    simp only [State.accept_arena, Arena.slot, Arena.init, ite_self, vget_replicate]
  refine ⟨s.accept op en, hexec, ?_, ?_, ?_, s.accept_irq op en, rfl, ?_, ?_, rfl, rfl, rfl, rfl, hslot,
    fun i _ => vget_replicate 4 none i, rfl, rfl, ?_, rfl, rfl, rfl, rfl, rfl, rfl, rfl, arenaShared_iff s⟩
  · simp [State.busy, HostRegs.start]
  · simp [State.done, HostRegs.start]
  · simp [State.err, HostRegs.start]
  · rintro rfl
    exact ⟨rfl, rfl, rfl, rfl, rfl⟩
  · rintro rfl
    exact ⟨rfl, rfl, rfl, rfl, rfl⟩
  · intro i hi
    interval_cases i <;> exact ⟨rfl, rfl⟩

end Sys2Proof.Machine

namespace Sys2Proof.Machine

/-! ### The frame registers (R38, R39, R218) -/

/-- The largest of a list that has an element is one of its elements, and none is larger. -/
theorem maxOf_spec {l : List Nat} (hne : l ≠ []) : maxOf l ∈ l ∧ ∀ x ∈ l, x ≤ maxOf l := by
  cases l with
  | nil => exact absurd rfl hne
  | cons x xs =>
    have hmax : (x :: xs).max? = some (maxOf (x :: xs)) := by
      rw [List.max?_cons', maxOf, List.foldl_cons, Nat.zero_max]
    exact List.max?_eq_some_iff.1 hmax

/-- The bounds of R218 on H, V and Tq of one component. -/
theorem frameCompsOk_bounds {comps : List (Byte × Nat × Nat × Nat)} (h : frameCompsOk comps = true) {c : Byte × Nat × Nat × Nat}
    (hc : c ∈ comps) : c.2.1 ≤ 4 ∧ c.2.2.1 ≤ 4 ∧ c.2.2.2 ≤ 3 := by
  simp only [frameCompsOk, Bool.and_eq_true, List.all_eq_true, decide_eq_true_eq] at h
  obtain ⟨-, hall⟩ := h
  obtain ⟨⟨⟨⟨-, hh⟩, -⟩, hv⟩, htq⟩ := hall c hc
  exact ⟨hh, hv, htq⟩

theorem toNat_ofNat_of_lt {w n : Nat} (h : n < 2 ^ w) : (BitVec.ofNat w n).toNat = n :=
  (BitVec.toNat_ofNat n w).trans (Nat.mod_eq_of_lt h)

/-- HMAX (or VMAX) holds the largest of factors up to 4: it is one of them, and none is larger. -/
theorem maxOf_register {comps : List (Byte × Nat × Nat × Nat)} (hne : comps ≠ []) (f : Byte × Nat × Nat × Nat → Nat)
    (h : ∀ c ∈ comps, f c ≤ 4) :
    (∃ c ∈ comps, (BitVec.ofNat 3 (maxOf (comps.map f))).toNat = f c) ∧
    ∀ c ∈ comps, f c ≤ (BitVec.ofNat 3 (maxOf (comps.map f))).toNat := by
  obtain ⟨hmem, hle⟩ := maxOf_spec (l := comps.map f) (by simpa using hne)
  obtain ⟨c, hc, hmax⟩ := List.mem_map.1 hmem
  have hfits : (BitVec.ofNat 3 (maxOf (comps.map f))).toNat = maxOf (comps.map f) :=
    toNat_ofNat_of_lt (by rw [← hmax]; exact lt_of_le_of_lt (h c hc) (by decide))
  exact ⟨⟨c, hc, hfits.trans hmax.symm⟩, fun d hd => (hle _ (List.mem_map_of_mem hd)).trans_eq hfits.symm⟩

/-- Component `k` of a header as the frame registers hold it. -/
theorem compAt_ofHeader (old : Frame) (n : BitVec 4) {h : FrameHeader} (y : Nat) (exp : Option (Bool × Bool)) {k : Nat}
    {c : Byte × Nat × Nat × Nat} (hk : h.comps[k]? = some c) (hk4 : k < 4) :
    (old.ofHeader n h y exp).compAt k =
      { vget old.comp k default with
        id := c.1, h := BitVec.ofNat 3 c.2.1, v := BitVec.ofNat 3 c.2.2.1, tq := BitVec.ofNat 2 c.2.2.2 } := by
  rw [Frame.compAt, Frame.ofHeader, vget_ofFn _ _ hk4]
  simp only [hk]

/-! ### INFO (R32, R218) -/

theorem infoFrame_fields (info : Word) (n : BitVec 4) (nf : BitVec 3) (p : BitVec 5) :
    (infoFrame info n nf p).extractLsb' 4 4 = n ∧ (infoFrame info n nf p).extractLsb' 8 3 = nf ∧
    (infoFrame info n nf p).extractLsb' 16 5 = p ∧ (infoFrame info n nf p).extractLsb' 0 4 = info.extractLsb' 0 4 := by
  refine ⟨?_, ?_, ?_, ?_⟩
  all_goals
    refine BitVec.eq_of_getLsbD_eq fun i hi => ?_
    interval_cases i <;> simp [infoFrame]

/-! ### The frame opened (R218, R45, R49) -/

theorem plane_openFrame (s : State) (n : BitVec 4) {h : FrameHeader} (y : Nat) {k : Nat} (hk : k < h.comps.length) (hk4 : k < 4) :
    (s.openFrame n h y).plane k = some ((s.openFrame n h y).fr.newPlane k) := by
  rw [State.plane, State.openFrame, vget_ofFn _ _ hk4]
  exact if_pos hk

theorem coverAt_openFrame (s : State) (n : BitVec 4) (h : FrameHeader) (y c k : Nat) :
    coverAt (s.openFrame n h y).tb.cover c k = none := by
  have hrow : vget (s.openFrame n h y).tb.cover c (Vector.replicate 64 none) = Vector.replicate 64 none :=
    vget_replicate 4 _ c
  rw [coverAt, hrow, vget_replicate]

/-- Settles O28: the registers from the header's ranges, the planes from the registers, INFO bit by bit. -/
theorem frameHeaderFields : Obligations.FrameHeaderFields := by
  intro s n h y hnf1 hnf4 hp hx1 hx hy1 hy hcomps t
  have hne : h.comps ≠ [] := List.ne_nil_of_length_pos hnf1
  have htp : t.fr.p.toNat = h.p := toNat_ofNat_of_lt (by omega)
  have htx : t.fr.x.toNat = h.x := toNat_ofNat_of_lt hx
  have hty : t.fr.y.toNat = y := toNat_ofNat_of_lt hy
  have htnf : t.fr.nf.toNat = h.comps.length := toNat_ofNat_of_lt (by omega)
  obtain ⟨hhmax, hle_hmax⟩ := maxOf_register hne (·.2.1) fun c hc => (frameCompsOk_bounds hcomps hc).1
  obtain ⟨hvmax, hle_vmax⟩ := maxOf_register hne (·.2.2.1) fun c hc => (frameCompsOk_bounds hcomps hc).2.1
  obtain ⟨hinfo_n, hinfo_nf, hinfo_p, hinfo_low⟩ := infoFrame_fields s.regs.info n t.fr.nf t.fr.p
  refine ⟨rfl, htp, htx, hty, htnf, fun k c hk => ?_, hhmax, hvmax, coverAt_openFrame s n h y, hinfo_n,
    (congrArg BitVec.toNat hinfo_nf).trans htnf, (congrArg BitVec.toNat hinfo_p).trans htp, hinfo_low, fun hd => ?_, fun hd => ?_⟩
  · have hklen : k < h.comps.length := (List.getElem?_eq_some_iff.1 hk).1
    have hk4 : k < 4 := hklen.trans_le hnf4
    have hmem : c ∈ h.comps := List.mem_of_getElem? hk
    obtain ⟨hh, hv, htq⟩ := frameCompsOk_bounds hcomps hmem
    have hcomp := compAt_ofHeader s.fr n y (if sofDifferential n then s.hi.exp else none) hk hk4
    have htH : t.fr.hOf k = c.2.1 := (congrArg (·.h.toNat) hcomp).trans (toNat_ofNat_of_lt (by omega))
    have htV : t.fr.vOf k = c.2.2.1 := (congrArg (·.v.toNat) hcomp).trans (toNat_ofNat_of_lt (by omega))
    have hplane : t.plane k = some (t.fr.newPlane k) := plane_openFrame s n y hklen hk4
    refine ⟨congrArg (·.id) hcomp, htH, htV, (congrArg (·.tq.toNat) hcomp).trans (toNat_ofNat_of_lt (by omega)),
      hle_hmax c hmem, hle_vmax c hmem, fun hl => ?_, fun hl => ?_⟩
    · have hdct : t.fr.isLossless = false := hl
      rw [hplane, Frame.newPlane, hdct, if_neg Bool.false_ne_true, htH, htV, htx, hty]
      rfl
    · have hll : t.fr.isLossless = true := hl
      rw [hplane, Frame.newPlane, hll, if_pos rfl, htH, htV, htx, hty]
      rfl
  · have hflat : s.hierarchical = false := by simp [State.hierarchical, hd]
    have hw : t.regs.imgWidth = t.fr.x.setWidth 32 := if_neg (ne_true_of_eq_false hflat)
    have hh : t.regs.imgHeight = t.fr.y.setWidth 32 := if_neg (ne_true_of_eq_false hflat)
    rw [hw, hh, BitVec.toNat_setWidth_of_le (by decide), BitVec.toNat_setWidth_of_le (by decide)]
    exact ⟨htx, hty⟩
  · have hhier : s.hierarchical = true := Option.isSome_iff_ne_none.2 hd
    exact ⟨if_pos hhier, if_pos hhier⟩

end Sys2Proof.Machine

namespace Sys2Proof.Machine

/-! ### What the engine leaves of host memory (R100, R104) -/

/-- Host memory keeps its canonical form, the buffers stay where they are, and outside the output buffer and the arena every byte is kept. -/
def Confined (s t : State) : Prop :=
  t.inOutput = s.inOutput ∧ t.inArena = s.inArena ∧ (s.mem.wf = true → t.mem.wf = true ∧
    ∀ a, s.inOutput a = false → s.inArena a = false → t.mem.read a = s.mem.read a ∧ t.mem.unknown a = s.mem.unknown a)

theorem Confined.trans {s t u : State} (hst : Confined s t) (htu : Confined t u) : Confined s u := by
  obtain ⟨hout, harena, hmem⟩ := hst
  obtain ⟨hout', harena', hmem'⟩ := htu
  refine ⟨hout'.trans hout, harena'.trans harena, fun hw => ?_⟩
  obtain ⟨hwt, hkept⟩ := hmem hw
  obtain ⟨hwu, hkept'⟩ := hmem' hwt
  refine ⟨hwu, fun a ho ha => ?_⟩
  obtain ⟨hread, hunknown⟩ := hkept a ho ha
  obtain ⟨hread', hunknown'⟩ := hkept' a (by rwa [hout]) (by rwa [harena])
  exact ⟨hread'.trans hread, hunknown'.trans hunknown⟩

theorem confined_of_flow {s t : State} (h : Flow s t) : Confined s t := by
  obtain ⟨-, ⟨-, -, -, -, -, hob, hol, hsb, hsl, -⟩, -, -, -, hmem⟩ := h
  refine ⟨funext fun a => ?_, funext fun a => ?_, hmem⟩
  · simp only [State.inOutput, hob, hol]
  · simp only [State.inArena, hsb, hsl]

theorem confined_succeed (s : State) : Confined s (succeed s) := ⟨rfl, rfl, fun hw => ⟨hw, fun _ _ _ => ⟨rfl, rfl⟩⟩⟩

theorem confined_accept (s : State) (op en : Bool) : Confined s (s.accept op en) :=
  ⟨rfl, rfl, fun hw => ⟨hw, fun _ _ _ => ⟨rfl, rfl⟩⟩⟩

theorem confined_failEntry (e : ErrKind) (s : State) : Confined s (failEntry e s) :=
  ⟨rfl, rfl, fun hw => ⟨Memory.forget_wf (State.spill_mem_wf hw) _ _, fun _ ho ha => (failEntry_outside e hw ho (.inr ha)).symm⟩⟩

theorem confined_engineTo {s t : State} (h : EngineTo s t) : Confined s t := by
  cases h with
  | goesOn hsu => exact confined_of_flow hsu
  | succeeds hsu => exact (confined_of_flow hsu).trans (confined_succeed _)
  | fails e hsu => exact (confined_of_flow hsu).trans (confined_failEntry e _)

theorem confined_engineStep {s t : State} (h : engineStep exec s = .next t) : Confined s t := by
  refine (confined_of_flow (flow_refresh s)).trans ?_
  rcases engineRun_cases h with hto | ⟨-, -, u, op, en, hu, rfl⟩
  · exact confined_engineTo hto
  · exact (confined_of_flow hu).trans (confined_accept u op en)

/-- Settles O59: a step with no script is a step of the engine, and however that goes on or ends, it is confined. -/
theorem engineWritesOnlyTheOutput : Obligations.EngineWritesOnlyTheOutput := by
  intro s t hw hs hst
  have hengine : engineStep exec s = .next t := by rwa [step, stepOf, hs] at hst
  obtain ⟨-, -, hmem⟩ := confined_engineStep hengine
  exact (hmem hw).2

end Sys2Proof.Machine

namespace Sys2Proof.Machine

/-! ### Register accesses (R32, R34, R35, R108, R109) -/

/-- A write to the register block that is no word written to CTRL starts nothing: it is an action of the host. -/
theorem step_write_register {s : State} {addr v : Word} {off width : Nat} {rest : List HostAct} (ho : s.regOffset addr = some off)
    (hno : off ≠ 0 ∨ width ≠ 4) (h : s.script = .write addr width v :: rest) :
    step s = .next (State.hostWrite { s with script := rest } addr width v) := by
  have hstart : s.startWord (.write addr width v) = none := by
    refine if_neg fun ⟨h0, h4⟩ => ?_
    rw [ho, Option.some.injEq] at h0
    exact hno.elim (· h0) (· h4)
  simp only [step, stepOf, h, hstart]
  rfl

theorem wordAccess_unaligned {off width : Nat} (h : off % 4 ≠ 0 ∨ width ≠ 4) : wordAccess off width = false := by
  simpa [wordAccess, ← not_and_or] using h

/-- The step that writes an aligned register word other than CTRL. -/
theorem step_write_word {s : State} {addr v : Word} {off : Nat} {rest : List HostAct} (ho : s.regOffset addr = some off)
    (ha : off % 4 = 0) (h0 : off ≠ 0) (h : s.script = .write addr 4 v :: rest) :
    step s = .next { s with script := rest, regs := s.regs.writeWord s.busy (off / 4) v } := by
  rw [step_write_register ho (.inl h0) h, hostWrite_register (s := { s with script := rest }) ho ha]
  rfl

/-- A write to STATUS clears DONE and ERR where the value has a 1 (R35). -/
theorem writeWord_status_clears (r : HostRegs) (busy : Bool) (v : Word) :
    let status := (r.writeWord busy 1 v).status
    status.getLsbD 1 = (r.status.getLsbD 1 && !v.getLsbD 1) ∧ status.getLsbD 2 = (r.status.getLsbD 2 && !v.getLsbD 2) ∧
      ∀ k, k ≠ 1 → k ≠ 2 → status.getLsbD k = r.status.getLsbD k := by
  refine ⟨by simp [HostRegs.writeWord], by simp [HostRegs.writeWord], fun k h1 h2 => ?_⟩
  have hmask : (0x6 : Word).getLsbD k = false := by
    match k with
    | 0 => rfl
    | 1 => exact absurd rfl h1
    | 2 => exact absurd rfl h2
    | k + 3 => exact Nat.testBit_lt_two_pow (lt_of_lt_of_le (by decide : 6 < 2 ^ 3) (Nat.pow_le_pow_right (by decide) (by omega)))
  by_cases hk : k < 32
  · simp only [HostRegs.writeWord, BitVec.getLsbD_and, BitVec.getLsbD_not, hk, hmask, decide_true, Bool.and_false, Bool.not_false,
      Bool.and_true]
  · rw [BitVec.getLsbD_of_ge _ _ (Nat.le_of_not_lt hk), BitVec.getLsbD_of_ge _ _ (Nat.le_of_not_lt hk)]

/-- The read-only registers ignore a write (R109). -/
theorem writeWord_readOnly (r : HostRegs) (busy : Bool) (v : Word) {i : Nat} (h : i = 2 ∨ 12 ≤ i) : r.writeWord busy i v = r := by
  rcases h with rfl | h
  · rfl
  · obtain ⟨k, rfl⟩ := Nat.exists_eq_add_of_le' h
    rfl

theorem low16_toNat (v : Word) : (low16 v).toNat = v.toNat % 65536 := by
  rw [low16, BitVec.toNat_and]
  exact Nat.and_two_pow_sub_one_eq_mod v.toNat 16

/-- When idle a configuration register takes the value written, IMG_WIDTH and IMG_HEIGHT its low half (R32, R34). -/
theorem word_writeWord_same (r : HostRegs) (v : Word) {i : Nat} (h3 : 3 ≤ i) (h11 : i ≤ 11) :
    ((r.writeWord false i v).word i).toNat = if i < 10 then v.toNat else v.toNat % 65536 := by
  by_cases h10 : i < 10
  · interval_cases i <;> rfl
  · interval_cases i <;> exact low16_toNat v

/-- When idle a write to a configuration register keeps every other register (R34). -/
theorem word_writeWord_other (r : HostRegs) (v : Word) {i k : Nat} (h3 : 3 ≤ i) (h11 : i ≤ 11) (hk : k < 16) (hne : k ≠ i) :
    (r.writeWord false i v).word k = r.word k := by
  interval_cases i <;> interval_cases k <;> try rfl
  all_goals exact absurd rfl hne

/-- Settles O12: an access that is no aligned word is dropped, and a word reaches the register at its offset. -/
theorem registerAccesses : Obligations.RegisterAccesses := by
  refine ⟨fun s addr off width rest ho hno => ?_, fun s addr v off rest ho h => ⟨fun hoff => ?_, fun hoff => ?_, fun hb hoff => ?_⟩⟩
  · have hdrop : wordAccess off width = false := wordAccess_unaligned hno
    have ho' : State.regOffset { s with script := rest } addr = some off := ho
    refine ⟨fun v h => ?_, fun h => ?_⟩
    · rw [step_write_register ho (hno.imp_left fun hmod h0 => hmod (by rw [h0])) h, State.hostWrite, ho']
      simp only [hdrop, Bool.false_eq_true, if_false]
    · rw [step_read h, State.hostRead, ho']
      simp only [hdrop, Bool.false_eq_true, if_false]
  · subst hoff
    exact ⟨_, step_write_word ho rfl (by decide) h, rfl, writeWord_status_clears s.regs s.busy v⟩
  · have hfacts : off % 4 = 0 ∧ off ≠ 0 ∧ (off / 4 = 2 ∨ 12 ≤ off / 4) := by
      simp only [List.mem_cons, List.not_mem_nil, or_false] at hoff
      omega
    obtain ⟨ha, h0, hread⟩ := hfacts
    rw [step_write_word ho ha h0 h, writeWord_readOnly _ _ _ hread]
  · have hfacts : off % 4 = 0 ∧ off ≠ 0 ∧ 3 ≤ off / 4 ∧ off / 4 ≤ 11 ∧ (off < 40 ↔ off / 4 < 10) := by
      simp only [List.mem_cons, List.not_mem_nil, or_false] at hoff
      omega
    obtain ⟨ha, h0, h3, h11, h40⟩ := hfacts
    refine ⟨_, (step_write_word ho ha h0 h).trans (by rw [hb]), ?_, fun k hk hne => word_writeWord_other s.regs v h3 h11 hk hne⟩
    simp only [h40, word_writeWord_same s.regs v h3 h11]

end Sys2Proof.Machine

namespace Sys2Proof.Machine

/-! ### A byte the host writes (R111, R550, R591) -/

/-- When idle, or outside the three buffers, a byte the host writes is stored. -/
theorem hostStore_free {s : State} {a : Nat}
    (h : s.busy = false ∨ (s.inInput a = false ∧ s.inOutput a = false ∧ s.inArena a = false)) (b : Byte) :
    s.hostStore a b = { s with mem := s.mem.write a b } := by
  refine if_neg ?_
  rcases h with hb | ⟨hi, ho, ha⟩
  · simp [hb]
  · simp [hi, ho, ha]

/-- While BUSY a byte of a buffer becomes unspecified, and the breach is recorded. -/
theorem hostStore_breach {s : State} {a : Nat} (hb : s.busy = true)
    (h : s.inInput a = true ∨ s.inOutput a = true ∨ s.inArena a = true) (b : Byte) :
    s.hostStore a b = { s with mem := s.mem.forget a 1, breach := s.breached a } :=
  if_pos (by simpa [hb, or_assoc] using h)

/-- A host store that is no breach: the discipline is kept, or the byte is none of a buffer. -/
theorem hostStore_dichotomy (s : State) (a : Nat) :
    (s.busy = false ∨ (s.inInput a = false ∧ s.inOutput a = false ∧ s.inArena a = false)) ∨
    s.busy = true ∧ (s.inInput a = true ∨ s.inOutput a = true ∨ s.inArena a = true) := by
  by_cases h : s.busy = true ∧ (s.inInput a = true ∨ s.inOutput a = true ∨ s.inArena a = true)
  · exact .inr h
  · simp only [not_and_or, not_or, Bool.not_eq_true] at h
    exact .inl h

theorem breached_arena (s : State) (a : Nat) : (s.breached a).arena = true ↔ s.breach.arena = true ∨ s.inArena a = true :=
  Bool.or_eq_true_iff

/-- The output bytes recorded: those before, and the byte written where it is one of the output. -/
theorem breached_out {s : State} (hr : rangesFrom 0 s.breach.out = true) (a a' : Nat) :
    inRanges (s.breached a).out a' = true ↔ inRanges s.breach.out a' = true ∨ (s.inOutput a = true ∧ a' = a) := by
  unfold State.breached
  cases s.inOutput a with
  | false => simp
  | true =>
    have hsame : a ≤ a' ∧ a' ≤ a ↔ a' = a := by omega
    simp [inRanges_addRange hr (Nat.lt_succ_self a), hsame, or_comm]

/-- What a byte the host writes leaves of the other bytes. -/
theorem hostStore_other {s : State} (hw : s.mem.wf = true) {a a' : Nat} (hne : a' ≠ a) (b : Byte) :
    (s.hostStore a b).mem.read a' = s.mem.read a' ∧ (s.hostStore a b).mem.unknown a' = s.mem.unknown a' := by
  rcases hostStore_dichotomy s a with hfree | ⟨hb, hin⟩
  · rw [hostStore_free hfree]
    exact ⟨(Memory.read_write hw a b a').trans (if_neg hne), (Memory.unknown_write hw a b a').trans (by simp [hne])⟩
  · rw [hostStore_breach hb hin]
    exact Memory.forget_outside hw (by omega)

/-! ### The arena drawn (R111, R550, log 15) -/

/-- A list drawn anew keeps what its elements keep; its length is what every element keeps. -/
theorem map_redrawList {α β : Type} {f : α → α → α} {g : α → β} (h : ∀ a b, g (f a b) = g a) :
    ∀ as bs, (redrawList f as bs).map g = as.map g
  | [], _ => rfl
  | _ :: _, [] => rfl
  | a :: as, b :: bs => by rw [redrawList, List.map_cons, List.map_cons, h, map_redrawList h as bs]

theorem length_redrawList {α : Type} (f : α → α → α) (as bs : List α) : (redrawList f as bs).length = as.length := by
  simpa using congrArg List.length (map_redrawList (g := fun _ => ()) (fun _ _ => rfl) as bs)

/-- Slots drawn anew keep what their contents keep, and which are defined. -/
theorem map_vget_redrawSlots {α β : Type} {f : α → α → α} {g : α → β} (h : ∀ a b, g (f a b) = g a)
    (old new : Vector (Option α) 4) (i : Nat) :
    (vget (redrawSlots f old new) i none).map g = (vget old i none).map g := by
  by_cases hi : i < 4
  · rw [redrawSlots, vget_ofFn _ _ hi]
    cases vget old i none with
    | none => rfl
    | some a => cases vget new i none <;> simp [h]
  · simp [vget, hi]

theorem isSome_vget_redrawSlots {α : Type} (f : α → α → α) (old new : Vector (Option α) 4) (i : Nat) :
    (vget (redrawSlots f old new) i none).isSome = (vget old i none).isSome := by
  simpa using congrArg Option.isSome (map_vget_redrawSlots (f := f) (g := fun _ => ()) (fun _ _ => rfl) old new i)

theorem size_redraw (p q : Plane) : (p.redraw q).size = p.size := by
  cases p <;> cases q <;> rfl

theorem slot_redraw_bytes (a b : Arena) (cls i : Nat) :
    ((a.redraw b).slot cls i).map (·.bytes) = (a.slot cls i).map (·.bytes) := by
  unfold Arena.slot
  split <;> exact map_vget_redrawSlots (f := HuffTable.redraw) (g := (·.bytes)) (fun _ _ => rfl) _ _ i

/-- The frame records keep as many scan records as they had. -/
theorem frames_redraw_scans (l m : Layout) :
    (l.redraw m).frames.map (·.scans.length) = l.frames.map (·.scans.length) :=
  map_redrawList (f := FrameRec.redraw) (g := fun r => r.scans.length)
    (fun a b => length_redrawList ScanRec.redraw a.scans b.scans) _ _

/-- An engine step after a breach of the arena. -/
theorem step_drawn {s : State} (hs : s.script = []) (h : s.breach.arena = true) : step s = engineRun exec s.drawArena := by
  rw [step, stepOf, hs, ← State.refresh_drawn h]
  rfl

/-- Settles O56: the store by whether it breaches the discipline, the draw by what each redrawn list and slot keeps. -/
theorem hostStores : Obligations.HostStores := by
  refine ⟨fun s a b hw hr => ?_, fun s => step_drawn, fun s => ?_⟩
  · obtain ⟨m, br, hst, hm, hbr⟩ := hostStored_hostStore s a b
    dsimp only
    refine ⟨by rw [hst]; exact hm hw, by rw [hst]; exact hbr hr, fun a' hne => hostStore_other hw hne b, fun hfree => ?_,
      fun hb hin => ?_⟩
    · rw [hostStore_free hfree]
      exact ⟨(Memory.read_write hw a b a).trans (if_pos rfl), (Memory.unknown_write hw a b a).trans (by simp), rfl⟩
    · rw [hostStore_breach hb hin]
      exact ⟨Memory.unknown_forget_of hw (.inl (by omega)), rfl, breached_arena s a, breached_out hr a⟩
  · refine ⟨rfl, rfl, length_redrawList _ _ _, length_redrawList _ _ _, fun k f g hf hg => ?_, slot_redraw_bytes _ _, fun c =>
      ⟨isSome_vget_redrawSlots _ _ _ c, isSome_vget_redrawSlots _ _ _ c⟩, fun c p q hp hq => ?_,
      map_redrawList (f := AccPlane.redraw) (g := (·.id)) (fun _ _ => rfl) _ _,
      rfl, rfl, rfl, rfl⟩
    · have hk := congrArg (·[k]?) (frames_redraw_scans s.arena.layout (Config.freeArena s.draws).layout)
      simp only [List.getElem?_map, hf] at hk
      rw [show (s.arena.layout.redraw _).frames[k]? = some g from hg] at hk
      exact Option.some.inj hk
    · have hc := map_vget_redrawSlots size_redraw s.arena.planes (Config.freeArena s.draws).planes c
      rw [show vget (redrawSlots _ _ _) c none = some q from hq, show vget s.arena.planes c none = some p from hp] at hc
      exact Option.some.inj hc

end Sys2Proof.Machine

namespace Sys2Proof.Machine

/-! ### The bytes of the image (R105, R456) -/

/-- Element `j` of piece `i` of pieces of one length. -/
theorem lget_flatMap_range {α : Type} {f : Nat → List α} {len : Nat} (hlen : ∀ i, (f i).length = len) (d : α) {n i j : Nat}
    (hi : i < n) (hj : j < len) : lget ((List.range n).flatMap f) (i * len + j) d = lget (f i) j d := by
  induction n generalizing f i with
  | zero => exact absurd hi (Nat.not_lt_zero i)
  | succ n ih =>
    have hsplit : (List.range (n + 1)).flatMap f = f 0 ++ (List.range n).flatMap (f ∘ Nat.succ) := by
      rw [List.range_succ_eq_map, List.flatMap_cons, List.flatMap_map]
      rfl
    rw [hsplit]
    cases i with
    | zero => simp only [lget, Nat.zero_mul, Nat.zero_add, List.getElem?_append_left (hj.trans_eq (hlen 0).symm)]
    | succ i =>
      have hpast : (i + 1) * len + j = (f 0).length + (i * len + j) := by rw [hlen]; ring
      rw [lget, hpast, List.getElem?_append_right (Nat.le_add_right _ _), Nat.add_sub_cancel_left]
      exact ih (fun k => hlen (k + 1)) (Nat.lt_of_succ_lt_succ hi)

/-- Byte `j` of pixel `(x, y)` stands at `8*(y*X + x) + j` (R105). -/
theorem lget_imageBytes (params : Config.Params) (kind : Config.TransferKind) (p hmax vmax : Nat) (comps : List OutComp)
    {w h x y j : Nat} (hx : x < w) (hy : y < h) (hj : j < 8) :
    lget (imageBytes params kind p w h hmax vmax comps) (8 * (y * w + x) + j) 0 =
      lget (pixelBytes params p (transferApply params kind p
        (comps.map fun c => upsample params hmax c.h vmax c.v c.plane x y))) j 0 := by
  have hpos : 8 * (y * w + x) + j = y * (w * 8) + (x * 8 + j) := by ring
  have hrow : x * 8 + j < w * 8 := by omega
  rw [hpos, imageBytes, lget_flatMap_range (len := w * 8) (fun y => ?_) 0 hy hrow,
    lget_flatMap_range (fun x => length_pixelBytes _ _ _) 0 hx hj]
  simp [length_pixelBytes]

theorem bytesLE16_low (v : BitVec 16) : (lget (bytesLE16 v) 0 0).toNat = v.toNat % 256 := BitVec.toNat_setWidth 8 v

theorem bytesLE16_high (v : BitVec 16) : (lget (bytesLE16 v) 1 0).toNat = v.toNat / 256 := by
  have hbyte : v.toNat / 256 < 256 := Nat.div_lt_of_lt_mul v.isLt
  calc ((v >>> 8).setWidth 8).toNat = v.toNat / 256 % 256 := by
        rw [BitVec.toNat_setWidth, BitVec.toNat_ushiftRight, Nat.shiftRight_eq_div_pow]
    _ = v.toNat / 256 := Nat.mod_eq_of_lt hbyte

/-- Channel `k` of a pixel: red, green, blue, and alpha or ALPHA_ABSENT (R105, R455). -/
def channelValue (params : Config.Params) (p : Nat) (c : Config.Channels) (k : Nat) : BitVec 16 :=
  if k = 0 then channelOut params p c.r else if k = 1 then channelOut params p c.g
  else if k = 2 then channelOut params p c.b
  else match c.a with
    | some a => channelOut params p a
    | none => params.alphaAbsent

theorem pixelBytes_channel (params : Config.Params) (p : Nat) (c : Config.Channels) {k : Nat} (hk : k < 4) :
    lget (pixelBytes params p c) (2 * k) 0 = lget (bytesLE16 (channelValue params p c k)) 0 0 ∧
    lget (pixelBytes params p c) (2 * k + 1) 0 = lget (bytesLE16 (channelValue params p c k)) 1 0 := by
  obtain ⟨r, g, b, _ | a⟩ := c <;> interval_cases k <;> simp [pixelBytes, bytesLE16, channelValue, lget]

/-! ### The pixel sink (R105, R111, R456) -/

/-- The state after the pixels are written: the bytes stand from OUT_BASE on, the arena is seen in memory, the image has its size. -/
def State.withPixels (s : State) (w h : Nat) (bytes : List Byte) : State :=
  { s with
    mem := Memory.storeList s.breach.out s.spill.mem (s.outAddr 0) bytes
    regs := { s.regs with imgWidth := BitVec.ofNat 32 w, imgHeight := BitVec.ofNat 32 h } }

theorem writePixels_short {s : State} {w h : Nat} (bytes : List Byte) (hfit : s.outLen < 8 * w * h) :
    writePixels w h bytes s = .error (.raise .outOfMemory s) := by
  simp [writePixels, hfit]

theorem writePixels_ok {s : State} {w h : Nat} (bytes : List Byte) (hfit : 8 * w * h ≤ s.outLen) :
    writePixels w h bytes s = .ok ((), s.withPixels w h bytes) := by
  simp only [writePixels, act_bind, act_get, act_ite, if_neg (Nat.not_lt.2 hfit), act_update]
  rfl

theorem withPixels_inside {s : State} (hw : s.mem.wf = true) (w h : Nat) {bytes : List Byte} {k : Nat} (hk : k < bytes.length) :
    let t := s.withPixels w h bytes
    (inRanges s.breach.out (s.outAddr k) = true → t.mem.unknown (s.outAddr k) = true) ∧
    (inRanges s.breach.out (s.outAddr k) = false →
      t.mem.read (s.outAddr k) = lget bytes k 0 ∧ t.mem.unknown (s.outAddr k) = false) := by
  have hstored := Memory.storeList_inside s.breach.out bytes (State.spill_mem_wf hw) (s.outAddr 0) k hk
  have hbyte : lget bytes k 0 = bytes[k] := by simp [lget, hk]
  rw [show s.outAddr 0 + k = s.outAddr k from rfl] at hstored
  refine ⟨fun hout => ?_, fun hout => ?_⟩
  · rwa [if_pos hout] at hstored
  · rw [if_neg (ne_true_of_eq_false hout), ← hbyte] at hstored
    exact hstored

theorem withPixels_outside {s : State} (hw : s.mem.wf = true) (w h : Nat) {bytes : List Byte} {a : Nat}
    (ha : ∀ k < bytes.length, a ≠ s.outAddr k) :
    (s.withPixels w h bytes).mem.read a = s.spill.mem.read a ∧ (s.withPixels w h bytes).mem.unknown a = s.spill.mem.unknown a := by
  refine Memory.storeList_outside s.breach.out bytes (State.spill_mem_wf hw) (s.outAddr 0) a fun ⟨hlo, hhi⟩ => ?_
  exact ha (a - s.outAddr 0) (by omega) (by simp only [State.outAddr] at hlo ⊢; omega)

/-! ### The step that ends a decode (R450-R456, R476, R584) -/

theorem build_mapAll (w h : Nat) (f : Nat → Nat → Int) (g : Int → Int) :
    (Samples.build w h f).mapAll g = Samples.build w h fun x y => g (f x y) := by
  simp only [Samples.mapAll, Samples.build, List.map_flatMap, List.map_map, Function.comp_def]

/-- Component `c` of the frame as the output sees it (R452). -/
def State.outComp (s : State) (c : Nat) (rs : Samples) : OutComp :=
  ⟨Samples.build (s.fr.xc c) (s.fr.yc c) fun x y =>
    if s.fr.ft.toNat % 4 = 3 then min (rs.at x y) (2 ^ s.fr.p.toNat - 1) else rs.at x y, s.fr.hOf c, s.fr.vOf c⟩

theorem frameOutComps_cons {s : State} {c : Nat} {rs : Samples} (cs : List Nat) (hrs : vget s.arena.rs c none = some rs) :
    frameOutComps s (c :: cs) = (frameOutComps s cs).map (s.outComp c rs :: ·) := by
  have hcut : (if s.fr.isLossless then (rs.crop (s.fr.xc c) (s.fr.yc c)).mapAll (limitTo s.fr.p.toNat)
      else rs.crop (s.fr.xc c) (s.fr.yc c)) = (s.outComp c rs).plane := by
    by_cases hl : s.fr.ft.toNat % 4 = 3
    · have hlossless : s.fr.isLossless = true := beq_iff_eq.2 hl
      simp only [hlossless, hl, if_true, State.outComp, Samples.crop, build_mapAll, limitTo]
    · have hdct : s.fr.isLossless = false := beq_eq_false_iff_ne.2 hl
      simp only [hdct, hl, Bool.false_eq_true, if_false, State.outComp, Samples.crop]
  simp only [frameOutComps, hrs, hcut]
  rfl

/-- The components of the frame, one after another (R452). -/
theorem frameOutComps_eq {s : State} : ∀ {cs : List Nat} {comps : List OutComp}, comps.length = cs.length →
    (∀ (j c : Nat) (o : OutComp), cs[j]? = some c → comps[j]? = some o →
      ∃ rs, vget s.arena.rs c none = some rs ∧ o = s.outComp c rs) →
    frameOutComps s cs = some comps
  | [], [], _, _ => rfl
  | c :: cs, o :: comps, hlen, h => by
    obtain ⟨rs, hrs, rfl⟩ := h 0 c o rfl rfl
    have htail := frameOutComps_eq (Nat.succ.inj hlen) fun j c' o' hc ho => h (j + 1) c' o' hc ho
    rw [frameOutComps_cons cs hrs, htail]
    rfl

/-- Every DHP component is accumulated at the image's full resolution (R476). -/
theorem dhpComplete_iff (d : Dhp) (acc : List AccPlane) : dhpComplete d acc = true ↔
    ∀ e ∈ d.comps, ∃ p, findAcc acc e.1 = some p ∧ p.w = ceilDiv (d.x.toNat * e.2.1) d.hmax ∧
      p.h = ceilDiv (d.y.toNat * e.2.2) d.vmax := by
  rw [dhpComplete, List.all_eq_true]
  refine forall₂_congr fun e _ => ?_
  cases findAcc acc e.1 <;> simp [Dhp.extent]

/-- A component of a hierarchical image as the output sees it (R476). -/
def Dhp.outComp (d : Dhp) (p : Samples) (e : Byte × Nat × Nat) : OutComp := ⟨p.mapAll (limitTo d.p.toNat), e.2.1, e.2.2⟩

/-- The components of a hierarchical image, in the order of the IDs. -/
theorem dhpOutComps_eq {d : Dhp} {acc : List AccPlane} : ∀ {ids : List Byte} {comps : List OutComp}, comps.length = ids.length →
    (∀ (j : Nat) (o : OutComp), comps[j]? = some o → ∃ id p e, ids[j]? = some id ∧ findAcc acc id = some p ∧
      d.comps.find? (fun e => e.1 == id) = some e ∧ o = d.outComp p e) →
    dhpOutComps d acc ids = some comps
  | [], [], _, _ => rfl
  | id :: ids, o :: comps, hlen, h => by
    obtain ⟨id', p, e, hid, hp, he, rfl⟩ := h 0 o rfl
    obtain rfl : id = id' := Option.some.inj hid
    have htail := dhpOutComps_eq (Nat.succ.inj hlen) fun j o' ho => h (j + 1) o' ho
    simp only [dhpOutComps, hp, he, htail]
    rfl

theorem step_output {s : State} (hs : s.script = []) (hp : s.sq.phase = .output) (hu : s.undisturbed) :
    step s = runAct outputAct s := by
  have hfetch : fetch s = .ok (none, s) := by simp [fetch, hp]
  simp only [step, stepOf, hs, engineStep, State.refresh_kept hu, engineRun, hfetch, hp, quietAct]

/-- How a decode ends once its pixels are known: success where they are written, else the failure entry. -/
theorem step_pixels {s : State} {w h : Nat} {bytes : List Byte}
    (hstep : step s = runAct (writePixels w h bytes >>= fun _ => update succeed) s) :
    (∀ t, writePixels w h bytes s = .ok ((), t) → step s = .next (succeed t)) ∧
    (∀ e t, writePixels w h bytes s = .error (.raise e t) → step s = .next (failEntry e t)) := by
  refine ⟨fun t ht => ?_, fun e t ht => ?_⟩ <;> rw [hstep]
  · exact runAct_ok (by rw [act_bind, ht]; rfl)
  · exact runAct_bind_raise ht

theorem outputAct_frame {s : State} {kind : Config.TransferKind} {comps : List OutComp} (hk : s.hi.transfer = some kind)
    (hd : s.hi.dhp = none) (hc : frameOutComps s (List.range s.fr.nf.toNat) = some comps) :
    runAct outputAct s = runAct (writePixels s.fr.x.toNat s.fr.y.toNat (imageBytes s.params kind s.fr.p.toNat s.fr.x.toNat s.fr.y.toNat
      s.fr.hmax.toNat s.fr.vmax.toNat comps) >>= fun _ => update succeed) s := by
  simp only [runAct, outputAct, act_bind, act_get, act_orUndefined, hk, hd, hc]

theorem outputAct_incomplete {s : State} {kind : Config.TransferKind} {d : Dhp} (hk : s.hi.transfer = some kind)
    (hd : s.hi.dhp = some d) (hc : dhpComplete d s.arena.acc = false) :
    runAct outputAct s = .next (failEntry .imageDataError s) :=
  runAct_raise (by simp only [outputAct, act_bind, act_get, act_orUndefined, hk, hd, hc, Bool.false_eq_true, if_false, act_raise])

theorem outputAct_hierarchical {s : State} {kind : Config.TransferKind} {d : Dhp} {comps : List OutComp} (hk : s.hi.transfer = some kind)
    (hd : s.hi.dhp = some d) (hfull : dhpComplete d s.arena.acc = true) (hc : dhpOutComps d s.arena.acc s.hi.ids = some comps) :
    runAct outputAct s = runAct (writePixels d.x.toNat d.y.toNat (imageBytes s.params kind d.p.toNat d.x.toNat d.y.toNat
      d.hmax d.vmax comps) >>= fun _ => update succeed) s := by
  simp only [runAct, outputAct, act_bind, act_get, act_orUndefined, hk, hd, hfull, hc, if_true]

/-- Settles O52: the bytes by the layout of equal pieces, the sink by what a store leaves inside and outside its range, the last step by
the components it collects. -/
theorem pixelSinkLayout : Obligations.PixelSinkLayout := by
  refine ⟨⟨fun params kind p w h hmax vmax comps => ⟨length_imageBytes .., fun x y j =>
      lget_imageBytes params kind p hmax vmax comps⟩, fun params p c k hk => ?_⟩, fun w h bytes s hw hlen => ⟨writePixels_short bytes, fun hfit => ?_⟩, fun s kind hs hp hu hk => ?_⟩
  · obtain ⟨hlow, hhigh⟩ := pixelBytes_channel params p c hk
    rw [hlow, hhigh]
    exact ⟨bytesLE16_low _, bytesLE16_high _⟩
  · refine ⟨_, writePixels_ok bytes hfit, fun k hk => withPixels_inside hw w h (hk.trans_eq hlen.symm), fun a ha => ?_, rfl⟩
    obtain ⟨hread, hunknown⟩ := withPixels_outside hw w h (bytes := bytes) (a := a) fun k hk => ha k (hk.trans_eq hlen)
    rw [hread, hunknown]
    exact ⟨State.spill_unknown hw, State.spill_outside hw⟩
  · refine ⟨fun comps hd hlen hcomps => ?_, fun d hd => ⟨fun hpart => ?_, fun comps hfull hlen hcomps => ?_⟩⟩
    · refine step_pixels ((step_output hs hp hu).trans (outputAct_frame hk hd (frameOutComps_eq (by simpa using hlen) ?_)))
      intro j c o hc ho
      obtain ⟨hj, rfl⟩ := List.getElem?_eq_some_iff.1 hc
      rw [List.getElem_range]
      exact hcomps j o ho
    · rw [step_output hs hp hu]
      exact outputAct_incomplete hk hd (Bool.eq_false_iff.2 (mt (dhpComplete_iff d s.arena.acc).1 hpart))
    · exact step_pixels ((step_output hs hp hu).trans (outputAct_hierarchical hk hd ((dhpComplete_iff d s.arena.acc).2 hfull)
        (dhpOutComps_eq hlen hcomps)))

end Sys2Proof.Machine

namespace Sys2Proof.Machine

/-! ### Bytes of the input (R101) -/

@[simp] theorem length_inBytes (s : State) (off n : Nat) : (s.inBytes off n).length = n := by
  simp [State.inBytes]

theorem inBytes_add (s : State) (off m n : Nat) : s.inBytes off (m + n) = s.inBytes off m ++ s.inBytes (off + m) n := by
  simp only [State.inBytes, List.range_add, List.map_append, List.map_map, Function.comp_def, Nat.add_assoc]

theorem inBytes_succ (s : State) (off n : Nat) : s.inBytes off (n + 1) = s.inByte off :: s.inBytes (off + 1) n := by
  rw [Nat.add_comm n 1, inBytes_add]
  rfl

theorem take_inBytes (s : State) (off : Nat) {m n : Nat} (h : m ≤ n) : (s.inBytes off n).take m = s.inBytes off m := by
  obtain ⟨k, rfl⟩ := Nat.exists_eq_add_of_le h
  rw [inBytes_add, List.take_left' (length_inBytes s off m)]

/-- A range of the input that reads as two lists is two ranges. -/
theorem inBytes_eq_append {s : State} {off n : Nat} {as bs : List Byte} (h : s.inBytes off n = as ++ bs) :
    n = as.length + bs.length ∧ s.inBytes off as.length = as ∧ s.inBytes (off + as.length) bs.length = bs := by
  have hn : n = as.length + bs.length := by simpa using congrArg List.length h
  rw [hn, inBytes_add] at h
  obtain ⟨has, hbs⟩ := List.append_inj h (length_inBytes _ _ _)
  exact ⟨hn, has, hbs⟩

theorem inBytes_eq_cons {s : State} {off n : Nat} {b : Byte} {bs : List Byte} (h : s.inBytes off n = b :: bs) :
    n = bs.length + 1 ∧ s.inByte off = b ∧ s.inBytes (off + 1) bs.length = bs := by
  have hn : n = bs.length + 1 := by simpa using congrArg List.length h
  rw [hn, inBytes_succ] at h
  obtain ⟨hb, hbs⟩ := List.cons.inj h
  exact ⟨hn, hb, hbs⟩

/-- The payload of a segment is readable. -/
theorem State.segmentAt.payload {s : State} {lx : Nat} (h : s.segmentAt lx) : s.readable (s.rd.bp + 2) (lx - 2) :=
  h.bytes (Nat.le_add_right _ _) (by have := h.le; omega)

/-! ### Replayed markers (R215, R216) -/

theorem byPhase_replaying {s : State} (h : s.replaying = true) (scan replay : Act Unit) : byPhase scan replay s = replay s := by
  simp [byPhase, h]

/-! ### Overfull codes (R290) -/

/-- A length whose codes are assigned ends `n` codes on, and not beyond the codes of that length. -/
theorem assignLength_next {len : Nat} : ∀ {n code : Nat} {vals : List Byte} {r : List Code × Nat × List Byte}, code ≤ 2 ^ len →
    assignLength len n code vals = some r → r.2.1 = code + n ∧ code + n ≤ 2 ^ len
  | 0, code, vals, r, hcode, h => by
    cases h
    exact ⟨rfl, hcode⟩
  | n + 1, code, [], r, _, h => by cases h
  | n + 1, code, v :: vals, r, _, h => by
    rw [assignLength] at h
    split at h
    · cases h
    · next hfull =>
      obtain ⟨r', hr', rfl⟩ := Option.map_eq_some_iff.1 h
      obtain ⟨hnext, hle⟩ := assignLength_next (Nat.lt_of_not_le hfull) hr'
      exact ⟨hnext.trans (by omega), by omega⟩

/-- The codes of the last length that a list of counts takes up, each shorter code for all those below it. -/
def codeSpace : List Nat → Nat
  | [] => 0
  | n :: counts => n * 2 ^ counts.length + codeSpace counts

/-- Counts whose codes are assigned leave the code at most full. -/
theorem codeSpace_le_of_assignCodes : ∀ {counts : List Nat} {len code : Nat} {vals : List Byte} {codes : List Code}, code ≤ 2 ^ len →
    assignCodes len counts code vals = some codes → code * 2 ^ counts.length + 2 * codeSpace counts ≤ 2 ^ (len + counts.length)
  | [], len, code, vals, codes, hcode, _ => by simpa [codeSpace] using hcode
  | n :: counts, len, code, vals, codes, hcode, h => by
    rw [assignCodes] at h
    split at h
    · cases h
    · next first code' vals' hlen =>
      obtain ⟨rest, hrest, -⟩ := Option.map_eq_some_iff.1 h
      obtain ⟨hnext, hle⟩ := assignLength_next hcode hlen
      obtain rfl : code' = code + n := hnext
      have hdouble : (code + n) * 2 ≤ 2 ^ (len + 1) := by rw [pow_succ]; omega
      have hspace := codeSpace_le_of_assignCodes hdouble hrest
      calc code * 2 ^ (n :: counts).length + 2 * codeSpace (n :: counts)
          = (code + n) * 2 * 2 ^ counts.length + 2 * codeSpace counts := by
            rw [List.length_cons, pow_succ, codeSpace]
            ring
        _ ≤ 2 ^ (len + 1 + counts.length) := hspace
        _ = 2 ^ (len + (n :: counts).length) := by rw [List.length_cons, Nat.add_right_comm, Nat.add_assoc]

theorem codeSpace_eq_sum : ∀ counts : List Nat,
    codeSpace counts = ((List.range counts.length).map fun k => lget counts k 0 * 2 ^ (counts.length - 1 - k)).sum
  | [] => rfl
  | n :: counts => by
    rw [codeSpace, codeSpace_eq_sum counts, List.length_cons, List.range_succ_eq_map, List.map_cons, List.sum_cons, List.map_map]
    refine congrArg₂ (· + ·) rfl (congrArg List.sum (List.map_congr_left fun k _ => ?_))
    have hexp : counts.length - 1 - k = counts.length + 1 - 1 - (k + 1) := by omega
    rw [hexp]
    rfl

/-- An overfull length list has no trie (R290). -/
theorem buildTrie_overfull {counts : List Nat} (hlen : counts.length = 16)
    (h : 2 ^ 16 < ((List.range 16).map fun k => lget counts k 0 * 2 ^ (15 - k)).sum) (vals : List Byte) :
    buildTrie counts vals = none := by
  refine Option.eq_none_iff_forall_ne_some.2 fun codes hcodes => ?_
  have hspace := codeSpace_le_of_assignCodes (Nat.zero_le _) hcodes
  rw [codeSpace_eq_sum, hlen] at hspace
  change _ + 2 * ((List.range 16).map fun k => lget counts k 0 * 2 ^ (15 - k)).sum ≤ _ at hspace
  omega

end Sys2Proof.Machine

namespace Sys2Proof.Machine

/-! ### The definitions of a DHT payload (R136, R216, R220) -/

/-- The counts of the definition at an input offset. -/
def State.huffCounts (s : State) (p : Nat) : List Nat := (s.inBytes (p + 1) 16).map (·.toNat)

/-- What DHT asks of the definition at `p`, `n` bytes before the payload's end, ahead of building its trie (R220). -/
def State.huffHeaderOk (s : State) (p n : Nat) : Prop :=
  17 ≤ n ∧ hiNibble (s.inByte p) ≤ 1 ∧ loNibble (s.inByte p) ≤ 3 ∧ (s.huffCounts p).sum ≤ 256 ∧ 17 + (s.huffCounts p).sum ≤ n

theorem dhtTables_end (fuel e : Nat) (s : State) : dhtTables (fuel + 1) e e s = .ok ((), s) := by
  simp [dhtTables]

theorem dhtTables_header {s : State} {p n : Nat} (h : s.readable p n) (hok : s.huffHeaderOk p n) (fuel : Nat) :
    dhtTables (fuel + 1) p (p + n) s =
      (installTable (hiNibble (s.inByte p)) (loNibble (s.inByte p)) (s.huffCounts p) (s.inBytes (p + 17) (s.huffCounts p).sum) >>=
        fun _ => dhtTables fuel (p + 17 + (s.huffCounts p).sum) (p + n)) s := by
  obtain ⟨h17, hcls, hslot, hm, hfit⟩ := hok
  have hfirst : s.readable p 1 := h.le (le_refl _) (by omega)
  have hcounts : s.readable (p + 1) 16 := h.le (by omega) (by omega)
  have hvals : s.readable (p + 17) (s.huffCounts p).sum := h.le (by omega) (by omega)
  have hpos : 0 < n := by omega
  unfold State.huffCounts at hm hfit hvals ⊢
  simp only [dhtTables, act_bind, act_ite, act_require, memRead1_ok hfirst, memReadList_ok hcounts, memReadList_ok hvals, hcls, hslot, hm,
    hfit, h17, hpos, Nat.add_assoc, Nat.add_le_add_iff_left, Nat.lt_add_right_iff_pos, decide_true, Bool.and_self, if_true]

theorem dhtTables_reject {s : State} {p n : Nat} (h : s.readable p n) (hpos : 0 < n) (hbad : ¬ s.huffHeaderOk p n) (fuel : Nat) :
    dhtTables (fuel + 1) p (p + n) s = .error (.raise .formatError s) := by
  have hfirst : s.readable p 1 := h.le (le_refl _) (by omega)
  by_cases h17 : 17 ≤ n
  swap
  · simp [dhtTables, hpos, h17]
  have hcounts : s.readable (p + 1) 16 := h.le (by omega) (by omega)
  by_cases hsel : hiNibble (s.inByte p) ≤ 1 ∧ loNibble (s.inByte p) ≤ 3
  swap
  · simp [dhtTables, hpos, h17, memRead1_ok hfirst, hsel]
  have hsum : ¬ ((s.huffCounts p).sum ≤ 256 ∧ 17 + (s.huffCounts p).sum ≤ n) := fun hs => hbad ⟨h17, hsel.1, hsel.2, hs⟩
  unfold State.huffCounts at hsum
  simp [dhtTables, hpos, h17, memRead1_ok hfirst, memReadList_ok hcounts, hsel, Nat.add_assoc, hsum]

theorem installTable_overfull {s : State} {counts : List Nat} {vals : List Byte} (h : buildTrie counts vals = none) (cls i : Nat) :
    installTable cls i counts vals s = .error (.raise .formatError s) := by
  simp [installTable, h]

theorem HuffDef.length_bytes (d : HuffDef) : d.bytes.length = 17 + d.vals.length := by
  simp only [HuffDef.bytes, List.length_append, List.length_cons, Vector.length_toList]

/-- The class of a definition. -/
def HuffDef.cls (d : HuffDef) : Nat := if d.ac then 1 else 0

/-- The counts of a definition as numbers. -/
def HuffDef.lengths (d : HuffDef) : List Nat := d.counts.toList.map (·.toNat)

theorem Arena.setSlot_used (a : Arena) (used cls i : Nat) (t : HuffTable) :
    Arena.setSlot { a with used := used } cls i t = { a.setSlot cls i t with used := used } := by
  unfold Arena.setSlot
  split <;> rfl

/-- A definition that can be made is what the installation of its table does. -/
theorem installTable_define {s t : State} {d : HuffDef} (h : s.defineHuff d = some t) :
    installTable d.cls d.slot.toNat d.lengths d.vals s = .ok ((), t) := by
  unfold State.defineHuff at h
  dsimp only at h
  split at h
  · cases h
  next codes hcodes =>
  split at h
  · cases h
  next hroom =>
  simp only [not_or, Bool.not_eq_true, Nat.not_lt] at hroom
  obtain ⟨hsize, hlimit, hfit⟩ := hroom
  have halloc := alloc_ok (s := s) (k := .trie d.vals.length) ⟨Nat.pos_of_ne_zero hsize, hlimit, hfit⟩
  obtain rfl := Option.some.inj h
  have htrie : buildTrie d.lengths d.vals = some codes := hcodes
  simp only [installTable, act_bind, act_orFormatError, htrie, halloc, act_get, release, act_update]
  rw [State.allocated_arena, Arena.setSlot_used, Arena.setSlot_used]
  rfl

/-- The first byte of a definition: its class and its slot (R136). -/
theorem huffDef_nibbles (ac : Bool) (slot : BitVec 2) :
    hiNibble ((if ac then 0x10#8 else 0#8) ||| slot.setWidth 8) = (if ac then 1 else 0) ∧
    loNibble ((if ac then 0x10#8 else 0#8) ||| slot.setWidth 8) = slot.toNat := by
  revert ac slot
  decide

/-- What stands where a definition is read. -/
theorem inBytes_huffDef {s : State} {p : Nat} {d : HuffDef} (hd : d.ok = true) (h : s.inBytes p d.bytes.length = d.bytes) :
    hiNibble (s.inByte p) = d.cls ∧ loNibble (s.inByte p) = d.slot.toNat ∧ s.huffCounts p = d.lengths ∧
    d.lengths.sum = d.vals.length ∧ d.vals.length ≤ 256 ∧ s.inBytes (p + 17) d.vals.length = d.vals := by
  obtain ⟨-, hhead, hvals⟩ := inBytes_eq_append h
  obtain ⟨-, hfirst, hcounts⟩ := inBytes_eq_cons hhead
  simp only [HuffDef.ok, Bool.and_eq_true, beq_iff_eq, decide_eq_true_eq] at hd
  obtain ⟨hsum, hle⟩ := hd
  obtain ⟨hcls, hslot⟩ := huffDef_nibbles d.ac d.slot
  rw [Vector.length_toList] at hcounts
  rw [List.length_cons, Vector.length_toList] at hvals
  exact ⟨hfirst ▸ hcls, hfirst ▸ hslot, congrArg (List.map BitVec.toNat) hcounts, hsum, hle, hvals⟩

/-- One definition of the payload (R220). -/
theorem dhtTables_define {s t : State} {p n : Nat} {d : HuffDef} (h : s.readable p n) (hd : d.ok = true) (hn : d.bytes.length ≤ n)
    (hbytes : s.inBytes p d.bytes.length = d.bytes) (hdef : s.defineHuff d = some t) (fuel : Nat) :
    dhtTables (fuel + 1) p (p + n) s = dhtTables fuel (p + d.bytes.length) (p + n) t := by
  obtain ⟨hcls, hslot, hcounts, hsum, hle, hvals⟩ := inBytes_huffDef hd hbytes
  have hslot3 : d.slot.toNat ≤ 3 := Nat.le_of_lt_succ d.slot.isLt
  have hcls1 : d.cls ≤ 1 := by unfold HuffDef.cls; split <;> decide
  rw [HuffDef.length_bytes] at hn ⊢
  have hok : s.huffHeaderOk p n := by
    rw [State.huffHeaderOk, hcls, hslot, hcounts, hsum]
    exact ⟨by omega, hcls1, hslot3, hle, hn⟩
  rw [dhtTables_header h hok, hcls, hslot, hcounts, hsum, hvals, act_bind, installTable_define hdef, Nat.add_assoc]

/-- A definition changes the arena alone. -/
theorem defineHuff_arena {s t : State} {d : HuffDef} (h : s.defineHuff d = some t) : t = { s with arena := t.arena } := by
  unfold State.defineHuff at h
  dsimp only at h
  split at h
  · cases h
  · split at h
    · cases h
    · obtain rfl := Option.some.inj h
      rfl

theorem defineHuffs_arena : ∀ {ds : List HuffDef} {s t : State}, State.defineHuffs ds s = some t → t = { s with arena := t.arena }
  | [], s, t, h => by
    obtain rfl := Option.some.inj h
    rfl
  | d :: ds, s, t, h => by
    obtain ⟨u, hu, ht⟩ := Option.bind_eq_some_iff.1 h
    rw [defineHuffs_arena ht, defineHuff_arena hu]

/-- The definitions at the head of the payload, one after another (R220). -/
theorem dhtTables_defines {rest : List Byte} (fuel : Nat) : ∀ {ds : List HuffDef} {s t : State} {p n : Nat}, s.readable p n →
    (∀ d ∈ ds, d.ok = true) → s.inBytes p n = ds.flatMap HuffDef.bytes ++ rest → State.defineHuffs ds s = some t →
    dhtTables (fuel + ds.length) p (p + n) s = dhtTables fuel (p + (ds.flatMap HuffDef.bytes).length) (p + n) t
  | [], s, t, p, n, _, _, _, ht => by
    obtain rfl := Option.some.inj ht
    rfl
  | d :: ds, s, t, p, n, hread, hok, hbytes, ht => by
    obtain ⟨u, hu, hut⟩ := Option.bind_eq_some_iff.1 ht
    rw [List.flatMap_cons, List.append_assoc] at hbytes
    obtain ⟨hn, hhead, htail⟩ := inBytes_eq_append hbytes
    generalize hlen : (ds.flatMap HuffDef.bytes ++ rest).length = m at hn htail
    have hu' := defineHuff_arena hu
    have hread' : u.readable (p + d.bytes.length) m := by
      rw [hu']
      exact hread.le (Nat.le_add_right _ _) (by omega)
    have htail' : u.inBytes (p + d.bytes.length) m = ds.flatMap HuffDef.bytes ++ rest := by
      rw [hu']
      exact htail
    have hrec := dhtTables_defines fuel hread' (fun e he => hok e (List.mem_cons_of_mem d he)) htail' hut
    rw [List.length_cons, ← Nat.add_assoc,
      dhtTables_define hread (hok d List.mem_cons_self) (by omega) hhead hu, hn, ← Nat.add_assoc, hrec, List.flatMap_cons,
      List.length_append, Nat.add_assoc p]

/-- Every definition takes bytes of the payload. -/
theorem length_le_huffDefs : ∀ ds : List HuffDef, ds.length ≤ (ds.flatMap HuffDef.bytes).length
  | [] => le_refl _
  | d :: ds => by
    have htail := length_le_huffDefs ds
    rw [List.flatMap_cons, List.length_append, HuffDef.length_bytes, List.length_cons]
    omega

/-- The segment of a DHT, replayed: its tables, then BP past it. -/
theorem replayDht_eq {s : State} {lx : Nat} (h : s.segmentAt lx) :
    replayDht s = (dhtTables (lx + 1) (s.rd.bp + 2) (s.rd.bp + 2 + (lx - 2)) >>= fun _ => skipSegment lx) s := by
  have hend : s.rd.bp + 2 + (lx - 2) = s.rd.bp + lx := by have := h.le; omega
  simp only [replayDht, act_bind, readLength_ok h, act_getBp, hend]

/-- A definition that fails a check, or whose code is overfull, ends the operation (R220, R290). -/
theorem dhtTables_bad {s : State} {p n : Nat} {b : Byte} {rest : List Byte} (h : s.readable p n) (hbytes : s.inBytes p n = b :: rest)
    (fuel : Nat) : let counts := (rest.take 16).map (·.toNat)
    rest.length < 16 ∨ 1 < b.toNat / 16 ∨ 3 < b.toNat % 16 ∨ 256 < counts.sum ∨ rest.length < 16 + counts.sum ∨
      2 ^ 16 < ((List.range 16).map fun k => lget counts k 0 * 2 ^ (15 - k)).sum →
    dhtTables (fuel + 1) p (p + n) s = .error (.raise .formatError s) := by
  intro counts hbad
  obtain ⟨hn, hfirst, hrest⟩ := inBytes_eq_cons hbytes
  by_cases hok : s.huffHeaderOk p n
  · have hok' := hok
    obtain ⟨h17, hcls, hslot, hm, hfit⟩ := hok'
    have hcounts : s.huffCounts p = counts := by
      rw [State.huffCounts, ← take_inBytes s (p + 1) (show 16 ≤ rest.length by omega), hrest]
    rw [hfirst, hiNibble] at hcls
    rw [hfirst, loNibble] at hslot
    rw [hcounts] at hm hfit
    have hfull : 2 ^ 16 < ((List.range 16).map fun k => lget counts k 0 * 2 ^ (15 - k)).sum := by omega
    have hlen : (s.huffCounts p).length = 16 := by rw [State.huffCounts, List.length_map, length_inBytes]
    rw [dhtTables_header h hok, act_bind, installTable_overfull (buildTrie_overfull hlen (by rwa [hcounts]) _)]
  · exact dhtTables_reject h (by omega) hok fuel

/-- Settles O25: the payload's definitions by induction, then its end, or the definition that fails. -/
theorem dhtDefinesTables : Obligations.DhtDefinesTables := by
  intro s t lx ds hreplay hseg hok ht
  have hexec : exec .dht s = runAct replayDht s := by
    change runAct (byPhase _ replayDht) s = _
    simp only [runAct, byPhase_replaying hreplay]
  have ht' := defineHuffs_arena ht
  have hcount := length_le_huffDefs ds
  refine ⟨fun hpay => ?_, fun b rest hpay hbad => ?_⟩ <;> rw [hexec]
  · rw [← List.append_nil (ds.flatMap _)] at hpay
    have hlen : lx - 2 = (ds.flatMap HuffDef.bytes).length := (inBytes_eq_append hpay).1
    obtain ⟨fuel, hfuel⟩ : ∃ fuel, lx + 1 = fuel + 1 + ds.length := ⟨lx - ds.length, by omega⟩
    refine runAct_ok ?_
    rw [replayDht_eq hseg, act_bind, hfuel, dhtTables_defines (fuel + 1) hseg.payload hok hpay ht, hlen, dhtTables_end]
    exact skipSegment_ok lx t
  · obtain ⟨hlen, -, htail⟩ := inBytes_eq_append hpay
    obtain ⟨fuel, hfuel⟩ : ∃ fuel, lx + 1 = fuel + 1 + ds.length := ⟨lx - ds.length, by omega⟩
    have hread : t.readable (s.rd.bp + 2 + (ds.flatMap HuffDef.bytes).length) (b :: rest).length := by
      rw [ht']
      exact hseg.payload.le (Nat.le_add_right _ _) (by omega)
    have hbytes : t.inBytes (s.rd.bp + 2 + (ds.flatMap HuffDef.bytes).length) (b :: rest).length = b :: rest := by
      rw [ht']
      exact htail
    refine runAct_raise ?_
    rw [replayDht_eq hseg, act_bind, hfuel, dhtTables_defines (fuel + 1) hseg.payload hok hpay ht, hlen, ← Nat.add_assoc,
      dhtTables_bad hread hbytes fuel hbad]

end Sys2Proof.Machine

namespace Sys2Proof.Machine

/-! ### The frame header (R134, R218) -/

/-- Component `k` of the frame header whose components stand from `p` on (R134). -/
def State.frameComp (s : State) (p k : Nat) : Byte × Nat × Nat × Nat :=
  (s.inByte (p + 3 * k), (s.inByte (p + 1 + 3 * k)).toNat / 16, (s.inByte (p + 1 + 3 * k)).toNat % 16, (s.inByte (p + 2 + 3 * k)).toNat)

/-- Nf of the segment at BP. -/
def State.frameNf (s : State) : Nat := (s.inByte (s.rd.bp + 7)).toNat

/-- The frame header of the segment at BP. -/
def State.frameHeader (s : State) : FrameHeader :=
  ⟨(s.inByte (s.rd.bp + 2)).toNat, s.inWord (s.rd.bp + 3), s.inWord (s.rd.bp + 5), (List.range s.frameNf).map (s.frameComp (s.rd.bp + 8))⟩

theorem length_frameHeader_comps (s : State) : s.frameHeader.comps.length = s.frameNf := by
  simp [State.frameHeader]

theorem readFrameComps_ok {s : State} : ∀ {n p : Nat}, s.readable p (3 * n) →
    readFrameComps n p s = .ok ((List.range n).map (s.frameComp p), s)
  | 0, _, _ => rfl
  | n + 1, p, h => by
    have hid : s.readable p 1 := h.le (le_refl _) (by omega)
    have hhv : s.readable (p + 1) 1 := h.le (by omega) (by omega)
    have htq : s.readable (p + 2) 1 := h.le (by omega) (by omega)
    have hrest : s.readable (p + 3) (3 * n) := h.le (by omega) (by omega)
    have hshift : s.frameComp p ∘ Nat.succ = s.frameComp (p + 3) := by
      funext k
      have hoff (d : Nat) : p + d + 3 * Nat.succ k = p + 3 + d + 3 * k := by omega
      have h0 : p + 3 * Nat.succ k = p + 3 + 3 * k := hoff 0
      simp only [Function.comp_apply, State.frameComp, h0, hoff]
    rw [List.range_succ_eq_map, List.map_cons, List.map_map, hshift]
    simp only [readFrameComps, act_bind, memRead1_ok hid, memRead1_ok hhv, memRead1_ok htq, readFrameComps_ok hrest, act_pure]
    rfl

theorem readFrameHeader_ok {s : State} {lx : Nat} (h : s.segmentAt lx) (h8 : 8 ≤ lx) (hlx : lx = 8 + 3 * s.frameNf) :
    readFrameHeader lx s = .ok (s.frameHeader, s) := by
  have hnf : s.readable (s.rd.bp + 7) 1 := h.bytes (by omega) (by omega)
  have hp : s.readable (s.rd.bp + 2) 1 := h.bytes (by omega) (by omega)
  have hy : s.readable (s.rd.bp + 3) 2 := h.bytes (by omega) (by omega)
  have hx : s.readable (s.rd.bp + 5) 2 := h.bytes (by omega) (by omega)
  have hcomps : s.readable (s.rd.bp + 8) (3 * s.frameNf) := h.bytes (by omega) (by omega)
  unfold State.frameNf at hlx hcomps
  simp only [readFrameHeader, readNf, act_bind, act_getBp, act_require, h8, decide_true, if_true, memRead1_ok hnf, ← hlx, act_pure,
    memRead1_ok hp, memRead2_ok hy, memRead2_ok hx, readFrameComps_ok hcomps]
  rfl

theorem readFrameHeader_bad {s : State} {lx : Nat} (h : s.segmentAt lx) (hbad : ¬ (8 ≤ lx ∧ lx = 8 + 3 * s.frameNf)) :
    readFrameHeader lx s = .error (.raise .formatError s) := by
  by_cases h8 : 8 ≤ lx
  · have hnf : s.readable (s.rd.bp + 7) 1 := h.bytes (by omega) (by omega)
    have hlx : ¬ lx = 8 + 3 * s.frameNf := fun hlx => hbad ⟨h8, hlx⟩
    unfold State.frameNf at hlx
    simp [readFrameHeader, readNf, h8, memRead1_ok hnf, hlx]
  · simp [readFrameHeader, readNf, h8]

/-! ### A frame decoded (R218, R451, R471) -/

/-- The end of SOFn: the checks of a hierarchical image, the choice of transfer, BP past the segment, the first scan next. -/
def finishSof (lx : Nat) : Act Unit := do
  let s ← get
  match s.hi.dhp with
    | some d => require (hierFrameOk d s.arena.acc s.fr)
    | none => pure ()
  selectTransfer
  skipSegment lx
  update fun s => { s with sq := { s.sq with phase := .replaySos, scanIx := 0 } }

/-- What the fields of a header must meet (R218). -/
def State.frameFieldsOk (s : State) (n : BitVec 4) (lx : Nat) : Prop :=
  8 ≤ lx ∧ lx = 8 + 3 * s.frameNf ∧ 1 ≤ s.frameNf ∧ s.frameNf ≤ 4 ∧ 1 ≤ s.frameHeader.x ∧ precisionOk n s.frameHeader.p = true ∧
  (sofLossless n = true → s.params.admitLossless = true) ∧ frameCompsOk s.frameHeader.comps = true

theorem parseSof_bad {s : State} {n : BitVec 4} {lx : Nat} (h : s.segmentAt lx) (hbad : ¬ s.frameFieldsOk n lx) :
    parseSof n s = .error (.raise .formatError s) := by
  by_cases hlen : 8 ≤ lx ∧ lx = 8 + 3 * s.frameNf
  swap
  · simp only [parseSof, act_bind, readLength_ok h, readFrameHeader_bad h hlen]
  obtain ⟨h8, hlx⟩ := hlen
  simp only [parseSof, act_bind, readLength_ok h, readFrameHeader_ok h h8 hlx, act_require, length_frameHeader_comps, act_get,
    ← Bool.decide_and, decide_eq_true_eq]
  by_cases hnf : 1 ≤ s.frameNf ∧ s.frameNf ≤ 4
  swap
  · simp only [if_neg hnf]
  by_cases hx : 1 ≤ s.frameHeader.x
  swap
  · simp only [if_pos hnf, if_neg hx]
  by_cases hp : precisionOk n s.frameHeader.p = true
  swap
  · simp only [if_pos hnf, if_pos hx, if_neg hp]
  by_cases hll : (!sofLossless n || s.params.admitLossless) = true
  swap
  · simp only [if_pos hnf, if_pos hx, if_pos hp, if_neg hll]
  have hcomps : ¬ frameCompsOk s.frameHeader.comps = true := fun hcomps =>
    hbad ⟨h8, hlx, hnf.1, hnf.2, hx, hp, fun hl => by simpa [hl] using hll, hcomps⟩
  simp only [if_pos hnf, if_pos hx, if_pos hp, if_pos hll, if_neg hcomps]

theorem parseSof_ok {s : State} {n : BitVec 4} {lx : Nat} (h : s.segmentAt lx) (hok : s.frameFieldsOk n lx) :
    parseSof n s = (do
      let y ← resolveLines s.frameHeader.y
      allocPlanes n s.frameHeader y
      update fun s' => s'.openFrame n s.frameHeader y
      finishSof lx : Act Unit) s := by
  obtain ⟨h8, hlx, hnf1, hnf4, hx, hp, hll, hcomps⟩ := hok
  have hadmit : (!sofLossless n || s.params.admitLossless) = true := by
    cases hl : sofLossless n
    · rfl
    · exact hll hl
  simp only [parseSof, act_bind, readLength_ok h, readFrameHeader_ok h h8 hlx, act_require, length_frameHeader_comps, act_get,
    hnf1, hnf4, hx, hp, hadmit, hcomps, decide_true, Bool.and_self, if_true]
  rfl

theorem alloc_empty {s : State} {k : Config.AllocKind} (h : allocSize s.params k = 0) : alloc k s = .error (.raise .formatError s) := by
  simp [alloc, h]

theorem overLimit_iff (s : State) (size : Nat) : overLimit s size = true ↔ s.regs.sizeLimit ≠ 0 ∧ s.regs.sizeLimit.toNat < size := by
  simp [overLimit]

theorem alloc_overLimit {s : State} {k : Config.AllocKind} (h0 : 0 < allocSize s.params k)
    (h : s.regs.sizeLimit ≠ 0 ∧ s.regs.sizeLimit.toNat < allocSize s.params k) : alloc k s = .error (.raise .imageTooLarge s) := by
  simp only [alloc, act_bind, act_get, act_ite, if_neg (Nat.ne_of_gt h0), (overLimit_iff s _).2 h, if_true, act_raise]

theorem alloc_noRoom {s : State} {k : Config.AllocKind} (h0 : 0 < allocSize s.params k)
    (h : ¬ (s.regs.sizeLimit ≠ 0 ∧ s.regs.sizeLimit.toNat < allocSize s.params k))
    (hroom : s.regs.scrLen.toNat < s.arena.used + allocSize s.params k) : alloc k s = .error (.raise .outOfMemory s) := by
  simp only [alloc, act_bind, act_get, act_ite, if_neg (Nat.ne_of_gt h0), if_neg (mt (overLimit_iff s _).1 h), if_pos hroom, act_raise]

/-- The allocation of a frame's planes (R106, R107). -/
def planesKind (n : BitVec 4) (h : FrameHeader) (y : Nat) : Config.AllocKind :=
  .planes (sofProcess n) h.x y h.comps.length (h.comps.map fun c => (c.2.1, c.2.2.1))

theorem allocPlanes_tooLarge {s : State} {n : BitVec 4} {h : FrameHeader} {y : Nat}
    (hl : 2 ^ 32 ≤ 8 * h.x * y ∨ 2 ^ 32 ≤ allocSize s.params (planesKind n h y)) :
    allocPlanes n h y s = .error (.raise .imageTooLarge s) := by
  have htoo : tooLarge h.x y (allocSize s.params (planesKind n h y)) = true := by simpa only [tooLarge, Bool.or_eq_true, decide_eq_true_eq]
  unfold planesKind at htoo
  simp only [allocPlanes, act_bind, act_get, act_ite, htoo, if_true, act_raise]

theorem allocPlanes_fits {s : State} {n : BitVec 4} {h : FrameHeader} {y : Nat} (hxy : 8 * h.x * y < 2 ^ 32)
    (hsize : allocSize s.params (planesKind n h y) < 2 ^ 32) :
    allocPlanes n h y s = (alloc (planesKind n h y) >>= fun _ => pure () : Act Unit) s := by
  have htoo : tooLarge h.x y (allocSize s.params (planesKind n h y)) = false := by
    simp only [tooLarge, Bool.or_eq_false_iff, decide_eq_false_iff_not, Nat.not_le]
    exact ⟨hxy, hsize⟩
  unfold planesKind at htoo
  simp only [allocPlanes, act_bind, act_get, act_ite, htoo, Bool.false_eq_true, if_false]
  rfl

theorem allocPlanes_raise {s t : State} {n : BitVec 4} {h : FrameHeader} {y : Nat} {e : ErrKind} (hxy : 8 * h.x * y < 2 ^ 32)
    (hsize : allocSize s.params (planesKind n h y) < 2 ^ 32) (ha : alloc (planesKind n h y) s = .error (.raise e t)) :
    allocPlanes n h y s = .error (.raise e t) := by
  rw [allocPlanes_fits hxy hsize, act_bind, ha]

/-- The frame's first scan is replayed next. -/
def State.firstScan (s : State) : State := { s with sq := { s.sq with phase := .replaySos, scanIx := 0 } }

/-- The choice of transfer at an image's first frame (R451). -/
def State.selected (s : State) : Option Config.TransferKind :=
  transferSelect s.params s.fr.ids s.arena.layout.jfifOff.isSome s.arena.layout.adobeOff.isSome s.hi.adobeT

theorem selectTransfer_later {s : State} (h : s.sq.frameIx ≠ 0) : selectTransfer s = .ok ((), s) := by
  simp [selectTransfer, h]

theorem selectTransfer_first {s : State} {k : Config.TransferKind} (h : s.sq.frameIx = 0) (hk : s.selected = some k) :
    selectTransfer s = .ok ((), { s with hi := { s.hi with transfer := some k, ids := s.fr.ids } }) := by
  unfold State.selected at hk
  simp [selectTransfer, h, hk]

theorem selectTransfer_none {s : State} (h : s.sq.frameIx = 0) (hk : s.selected = none) :
    selectTransfer s = .error (.raise .formatError s) := by
  unfold State.selected at hk
  simp [selectTransfer, h, hk]

theorem finishSof_badFrame {s : State} {d : Dhp} (lx : Nat) (hd : s.hi.dhp = some d) (hbad : hierFrameOk d s.arena.acc s.fr = false) :
    finishSof lx s = .error (.raise .formatError s) := by
  simp [finishSof, hd, hbad]

/-- Past the hierarchical checks: the transfer, then the first scan. -/
theorem finishSof_okFrame {s : State} (lx : Nat) (hok : ∀ d, s.hi.dhp = some d → hierFrameOk d s.arena.acc s.fr = true) :
    finishSof lx s = (selectTransfer >>= fun _ => update fun t => (t.past lx).firstScan : Act Unit) s := by
  have htail (t : State) : (skipSegment lx >>= fun _ => update State.firstScan : Act Unit) t = .ok ((), (t.past lx).firstScan) := by
    simp only [act_bind, skipSegment_ok, act_update]
  have hcheck : finishSof lx s = (selectTransfer >>= fun _ => skipSegment lx >>= fun _ => update State.firstScan : Act Unit) s := by
    cases hd : s.hi.dhp with
    | none => simp only [finishSof, act_bind, act_get, hd]; rfl
    | some d => simp only [finishSof, act_bind, act_get, hd, hok d hd, act_require, if_true]; rfl
  rw [hcheck, act_bind, act_bind]
  simp only [htail, act_update]

/-- A frame marker is its action. -/
theorem exec_sof {n : BitVec 4} {i : Instr} (h : (n, i) ∈ sofMarkers) (s : State) : exec i s = runAct (sofAct n) s := by
  simp only [sofMarkers, List.mem_cons, List.not_mem_nil, or_false, Prod.mk.injEq] at h
  rcases h with ⟨rfl, rfl⟩ | ⟨rfl, rfl⟩ | ⟨rfl, rfl⟩ | ⟨rfl, rfl⟩ | ⟨rfl, rfl⟩ | ⟨rfl, rfl⟩ | ⟨rfl, rfl⟩ | ⟨rfl, rfl⟩ | ⟨rfl, rfl⟩ |
    ⟨rfl, rfl⟩ | ⟨rfl, rfl⟩ | ⟨rfl, rfl⟩ | ⟨rfl, rfl⟩ <;> rfl

section
variable {s : State} {n : BitVec 4} {lx y : Nat}

/-- Where the lines are known but the planes are not allocated, the frame ends there. -/
theorem parseSof_noPlanes {e : ErrKind} (h : s.segmentAt lx) (hok : s.frameFieldsOk n lx)
    (hl : resolveLines s.frameHeader.y s = .ok (y, s)) (ha : allocPlanes n s.frameHeader y s = .error (.raise e s)) :
    parseSof n s = .error (.raise e s) := by
  simp only [parseSof_ok h hok, act_bind, hl, ha]

/-- The planes allocated and the frame opened, its end follows. -/
theorem parseSof_opened (h : s.segmentAt lx) (hok : s.frameFieldsOk n lx) (hl : resolveLines s.frameHeader.y s = .ok (y, s))
    (hxy : 8 * s.frameHeader.x * y < 2 ^ 32) (hsize : allocSize s.params (planesKind n s.frameHeader y) < 2 ^ 32)
    (hroom : s.roomFor (planesKind n s.frameHeader y)) :
    parseSof n s = finishSof lx ((s.allocated (planesKind n s.frameHeader y)).openFrame n s.frameHeader y) := by
  simp only [parseSof_ok h hok, act_bind, hl, allocPlanes_fits hxy hsize, alloc_ok hroom, act_pure, act_update]

end

/-- Settles O26, stage by stage: the fields, the lines, the planes, then the frame of a hierarchical image and the transfer. -/
theorem sofDecodesAFrame : Obligations.SofDecodesAFrame := by
  intro n i s lx hi hreplay hseg bp nf comps h fieldsOk
  have hexec : exec i s = runAct (parseSof n) s := by
    rw [exec_sof hi]
    simp only [runAct, sofAct, byPhase_replaying hreplay]
  rw [hexec]
  refine ⟨fun hbad => runAct_raise (parseSof_bad hseg hbad), fun hok => ⟨fun e t hl => runAct_raise ?_, fun y hl => ?_⟩⟩
  · have hl' : resolveLines s.frameHeader.y s = .error (.raise e t) := hl
    simp only [parseSof_ok hseg hok, act_bind, hl']
  intro kind u first selected
  have hkind : kind = planesKind n s.frameHeader y := by
    rw [planesKind, length_frameHeader_comps]
    rfl
  clear_value kind
  subst hkind
  refine ⟨fun hlarge => runAct_raise (parseSof_noPlanes hseg hok hl (allocPlanes_tooLarge hlarge)), fun hxy hsize => ?_,
    fun hxy hsize hroom => ?_⟩
  · have hraise {e : ErrKind} (ha : alloc (planesKind n s.frameHeader y) s = .error (.raise e s)) :
        runAct (parseSof n) s = .next (failEntry e s) :=
      runAct_raise (parseSof_noPlanes hseg hok hl (allocPlanes_raise hxy hsize ha))
    exact ⟨fun h0 => hraise (alloc_empty h0), fun h0 hlim => hraise (alloc_overLimit h0 hlim),
      fun h0 hlim hfull => hraise (alloc_noRoom h0 hlim hfull)⟩
  · have hopened : parseSof n s = finishSof lx u := parseSof_opened hseg hok hl hxy hsize hroom
    refine ⟨fun d hd hbad => runAct_raise (hopened.trans (finishSof_badFrame lx hd hbad)), fun hframe => ?_⟩
    have hend := hopened.trans (finishSof_okFrame lx hframe)
    refine ⟨fun hlater => runAct_ok ?_, fun k hfirst hk => runAct_ok ?_, fun hfirst hk => runAct_raise ?_⟩ <;> rw [hend, act_bind]
    · rw [selectTransfer_later (s := u) hlater]
      rfl
    · rw [selectTransfer_first (s := u) hfirst hk]
      rfl
    · rw [selectTransfer_none (s := u) hfirst hk]

end Sys2Proof.Machine

namespace Sys2Proof.Machine

/-! ### Encoding, then decoding (R132, R153, R154, R156, R158, R32) -/

/-- The instruction is read back from its encoding, whatever follows. -/
def ReadBack (i : Instr) : Prop := ∀ rest : List Byte, decode i.space (encode i ++ rest) = .ok (i, rest)

theorem readBack_marker {i : Instr} {m : Byte} (hs : i.space = .marker) (he : encode i = [0xFF, m])
    (hd : decodeMarker m = .ok i) : ReadBack i := by
  intro rest
  rw [hs, he]
  exact congrArg (Except.map (·, rest)) hd

theorem readBack_sel {i : Instr} {b : Byte} (hs : i.space = .sel) (he : encode i = [b]) (hd : decodeSel b = .ok i) :
    ReadBack i := by
  intro rest
  rw [hs, he]
  exact congrArg (Except.map (·, rest)) hd

/-- Every marker, its free low bits included, is read back from its code byte (R132). -/
theorem readBack_of_marker (i : Instr) (hs : i.space = .marker) : ReadBack i := by
  cases i
  case res02 l | res04 l | res08 l | res10 l | res20 l | res40 l | res80 l | rst l | app2 l | app4 l | app8 l | app12 l
      | jpg0 l | jpg8 l | jpg12 l =>
    exact readBack_marker rfl rfl (by revert l; decide)
  case tem | sof0 | sof1 | sof2 | sof3 | dht | sof5 | sof6 | sof7 | jpg | sof9 | sof10 | sof11 | dac | sof13 | sof14 | sof15
      | soi | eoi | sos | dqt | dnl | dri | dhp | exp | app0 | app1 | app14 | app15 | com =>
    exact readBack_marker rfl rfl rfl
  all_goals cases hs

/-- Every selector of a routine is read back; the baseline frame has no differential form (R158). -/
theorem readBack_of_sel (i : Instr) (hs : i.space = .sel) (hwf : i.wf = true) : ReadBack i := by
  cases i
  case hufSeq d x => 
    exact readBack_sel rfl rfl (by revert d x; decide)
  case hufDcFirst d | hufDcRefine d | hufAcFirst d | hufAcRefine d | hufLossless d | ariSeq d | ariDcFirst d | ariDcRefine d
      | ariAcFirst d | ariAcRefine d | ariLossless d =>
    exact readBack_sel rfl rfl (by revert d; decide)
  all_goals cases hs

/-- A category below 16 is its own byte (R153, R156). -/
theorem category_byte : ∀ t : BitVec 4, t.setWidth 8 < 0x10#8 ∧ (t.setWidth 8).setWidth 4 = t := by decide

theorem readBack_dcCategory (t : BitVec 4) : ReadBack (.dcCategory t) := by
  intro rest
  simp [Instr.space, encode, decode, decodeSymDc, category_byte, Except.map]

theorem readBack_losslessDiff (t : BitVec 4) : ReadBack (.losslessDiff t) := by
  intro rest
  simp [Instr.space, encode, decode, decodeSymLossless, category_byte, Except.map]

/-- The four forms of an AC symbol are apart (R154). -/
theorem decodeSymAc_eobn : ∀ r : BitVec 4, wfEobn r = true → decodeSymAc (r.setWidth 8 <<< 4) = .eobn r := by decide

theorem decodeSymAc_acCoeff :
    ∀ r s : BitVec 4, wfAcCoeff s = true → decodeSymAc (r.setWidth 8 <<< 4 ||| s.setWidth 8) = .acCoeff r s := by decide

theorem readBack_symAc {i : Instr} {b : Byte} (hs : i.space = .symAc) (he : encode i = [b]) (hd : decodeSymAc b = i) :
    ReadBack i := by
  intro rest
  rw [hs, he]
  exact congrArg (fun j => Except.ok (j, rest)) hd

/-- Settles O1: one row of the encoding tables at a time. -/
theorem encodeThenDecode : Obligations.EncodeThenDecode := by
  intro i rest hwf
  suffices h : ReadBack i from h rest
  cases hs : i.space
  case marker => exact readBack_of_marker i hs
  case sel => exact readBack_of_sel i hs hwf
  case symDc => cases i <;> cases hs; exact readBack_dcCategory _
  case symLossless => cases i <;> cases hs; exact readBack_losslessDiff _
  case symAc =>
    cases i
    case eob | zrl => exact readBack_symAc rfl rfl rfl
    case eobn r => exact readBack_symAc rfl rfl (decodeSymAc_eobn r hwf)
    case acCoeff r s => exact readBack_symAc rfl rfl (decodeSymAc_acCoeff r s hwf)
    all_goals cases hs
  case ctrl =>
    cases i
    case decode irq | encode irq => intro rest; cases irq <;> rfl
    all_goals cases hs

/-! ### Decoding, then encoding -/

/-- The instruction is one of the space, and the bytes are its encoding. -/
def EncodedBy (sp : Space) (bytes : List Byte) (i : Instr) : Prop := i.wf = true ∧ i.space = sp ∧ encode i = bytes

/-- Every code byte that is a marker is the code byte of that marker (R132). -/
theorem encodedBy_of_decodeMarker {m : Byte} {i : Instr} (h : decodeMarker m = .ok i) : EncodedBy .marker [0xFF, m] i := by
  have table : ∀ m : Byte, ∀ i ∈ (decodeMarker m).toOption, i.wf = true ∧ i.space = .marker ∧ encode i = [0xFF, m] := by
    decide
  exact table m i (by rw [h]; rfl)

/-- Every byte that is a selector is the selector of that routine (R158). -/
theorem encodedBy_of_decodeSel {b : Byte} {i : Instr} (h : decodeSel b = .ok i) : EncodedBy .sel [b] i := by
  have table : ∀ b : Byte, ∀ i ∈ (decodeSel b).toOption, i.wf = true ∧ i.space = .sel ∧ encode i = [b] := by
    decide
  exact table b i (by rw [h]; rfl)

/-- A byte below 16 is its own category (R153, R156). -/
theorem byte_of_category {b : Byte} (h : b < 0x10#8) : (b.setWidth 4).setWidth 8 = b := by
  revert b; decide

theorem encodedBy_of_decodeSymDc {b : Byte} {i : Instr} (h : decodeSymDc b = .ok i) : EncodedBy .symDc [b] i := by
  unfold decodeSymDc at h
  split at h
  case isTrue hb => cases h; exact ⟨rfl, rfl, congrArg (fun x => [x]) (byte_of_category hb)⟩
  case isFalse => cases h

theorem encodedBy_of_decodeSymLossless {b : Byte} {i : Instr} (h : decodeSymLossless b = .ok i) :
    EncodedBy .symLossless [b] i := by
  unfold decodeSymLossless at h
  split at h
  case isTrue hb => cases h; exact ⟨rfl, rfl, congrArg (fun x => [x]) (byte_of_category hb)⟩
  case isFalse => cases h

/-- Every byte is one of the four forms of an AC symbol (R154). -/
theorem encodedBy_decodeSymAc : ∀ b : Byte,
    (decodeSymAc b).wf = true ∧ (decodeSymAc b).space = .symAc ∧ encode (decodeSymAc b) = [b] := by decide

/-- What is left over is what followed the instruction's bytes. -/
theorem map_rest_ok {e : Except DecodeError Instr} {tail rest : List Byte} {i : Instr}
    (h : e.map (·, tail) = .ok (i, rest)) : e = .ok i ∧ tail = rest := by
  cases e with
  | error _ => cases h
  | ok j => cases h; exact ⟨rfl, rfl⟩

/-- Settles O2: the code byte, selector or symbol that was read is the encoding of its instruction. -/
theorem decodedBytesEncodeBack : Obligations.DecodedBytesEncodeBack := by
  intro sp bytes rest i hctrl h
  suffices h : ∃ head, bytes = head ++ rest ∧ EncodedBy sp head i by
    obtain ⟨head, hbytes, hwf, hsp, henc⟩ := h
    exact ⟨hwf, hsp, henc ▸ hbytes⟩
  unfold decode at h
  split at h
  case h_1 m tail =>
    obtain ⟨hm, rfl⟩ := map_rest_ok h
    exact ⟨[0xFF, m], rfl, encodedBy_of_decodeMarker hm⟩
  case h_4 b tail =>
    obtain ⟨hb, rfl⟩ := map_rest_ok h
    exact ⟨[b], rfl, encodedBy_of_decodeSel hb⟩
  case h_5 b tail =>
    obtain ⟨hb, rfl⟩ := map_rest_ok h
    exact ⟨[b], rfl, encodedBy_of_decodeSymDc hb⟩
  case h_6 b tail =>
    obtain ⟨hb, rfl⟩ := map_rest_ok h
    exact ⟨[b], rfl, encodedBy_of_decodeSymLossless hb⟩
  case h_7 b tail =>
    cases h
    exact ⟨[b], rfl, encodedBy_decodeSymAc b⟩
  case h_8 => exact absurd rfl hctrl
  all_goals cases h

/-! ### Words of the tables -/

/-- Settles O3: the model's decoder on the words. -/
theorem wordsOfTheTables : Obligations.WordsOfTheTables := by
  unfold Obligations.WordsOfTheTables
  decide

end Sys2Proof.Machine

namespace Sys2Proof.Machine

/-! ### A step by what is fetched (R202, R206, R266) -/

theorem step_fetched {s t : State} {i : Instr} (hs : s.script = []) (hu : s.undisturbed) (hf : fetch s = .ok (some i, t)) :
    step s = settle (exec i t) := by
  simp only [step, stepOf, hs, engineStep, State.refresh_kept hu, engineRun, hf]

theorem step_unfetched {s t : State} (hs : s.script = []) (hu : s.undisturbed) (hf : fetch s = .ok (none, t)) :
    step s = runAct (quietAct s.sq.phase) t := by
  simp only [step, stepOf, hs, engineStep, State.refresh_kept hu, engineRun, hf]

theorem step_fetch_raise {s t : State} {e : ErrKind} (hs : s.script = []) (hu : s.undisturbed)
    (hf : fetch s = .error (.raise e t)) : step s = .next (failEntry e t) := by
  simp only [step, stepOf, hs, engineStep, State.refresh_kept hu, engineRun, hf]

/-! ### Fill bytes (R130, R202) -/

/-- The `n` input bytes from `j` on are 0xFF. -/
def State.fillAt (s : State) (j n : Nat) : Prop := ∀ k < n, s.inByte (j + k) = 0xFF

theorem State.fillAt.tail {s : State} {j n : Nat} (h : s.fillAt j (n + 1)) : s.inByte j = 0xFF ∧ s.fillAt (j + 1) n := by
  refine ⟨h 0 (by omega), fun k hk => ?_⟩
  have := h (k + 1) (by omega)
  rwa [show j + (k + 1) = j + 1 + k by omega] at this

theorem skipFill_ok {s : State} : ∀ {n fuel j : Nat}, n < fuel → s.readable j (n + 1) → s.fillAt j n → s.inByte (j + n) ≠ 0xFF →
    skipFill fuel j s = .ok (j + n, s)
  | 0, fuel + 1, j, _, hread, _, hne => by
    have hne' : s.inByte j ≠ 0xFF := hne
    simp only [skipFill, act_bind, memRead1_ok hread, act_ite, if_neg hne', act_pure, Nat.add_zero]
  | n + 1, fuel + 1, j, hfuel, hread, hfill, hne => by
    obtain ⟨hfirst, hrest⟩ := hfill.tail
    have hj : j + (n + 1) = j + 1 + n := by omega
    rw [hj] at hne ⊢
    simp only [skipFill, act_bind, memRead1_ok (hread.le (n' := 1) (le_refl j) (by omega)), hfirst, act_ite, if_true,
      skipFill_ok (Nat.lt_of_succ_lt_succ hfuel) (hread.le (by omega) (by omega)) hrest hne]

/-- Fill bytes up to the end of the input. -/
theorem skipFill_end {s : State} : ∀ {n fuel j : Nat}, s.readable j n → s.fillAt j n → s.inLen = j + n →
    skipFill fuel j s = .error (.raise .formatError s)
  | _, 0, _, _, _, _ => rfl
  | 0, fuel + 1, j, _, _, hend => by simp [skipFill, memRead1_beyond (show s.inLen < j + 1 by omega)]
  | n + 1, fuel + 1, j, hread, hfill, hend => by
    obtain ⟨hfirst, hrest⟩ := hfill.tail
    simp only [skipFill, act_bind, memRead1_ok (hread.le (n' := 1) (le_refl j) (by omega)), hfirst, act_ite, if_true,
      skipFill_end (hread.le (n' := n) (by omega) (by omega)) hrest (by omega : s.inLen = j + 1 + n)]

/-! ### The next marker of the layout scan (R202) -/

theorem readMarker_short {s : State} (h : s.inLen < s.rd.bp + 2) : readMarker s = .error (.raise .formatError s) := by
  simp [readMarker, show ¬ s.rd.bp + 2 ≤ s.inLen by omega]

theorem readMarker_notFF {s : State} (hread : s.readable s.rd.bp 2) (hne : s.inByte s.rd.bp ≠ 0xFF) :
    readMarker s = .error (.raise .formatError s) := by
  have hfirst : s.readable s.rd.bp 1 := hread.le (le_refl _) (by omega)
  simp only [readMarker, act_bind, act_getBp, act_get, act_require, hread.1, decide_true, if_true, memRead1_ok hfirst, beq_iff_eq,
    if_neg hne]

/-- Past the first 0xFF, the marker is what the fill bytes lead to. -/
theorem readMarker_fill {s : State} (hread : s.readable s.rd.bp 2) (hFF : s.inByte s.rd.bp = 0xFF) :
    readMarker s = (skipFill s.inLen (s.rd.bp + 1) >>= fun j => do
      let m ← memRead1 j
      require (m != 0x00)
      update fun s => { s with rd := { s.rd with bp := j + 1 }, sq := { s.sq with moff := j - 1 } }
      pure m) s := by
  have hfirst : s.readable s.rd.bp 1 := hread.le (le_refl _) (by omega)
  simp [readMarker, hread.1, memRead1_ok hfirst, hFF]

theorem readMarker_unended {s : State} {n : Nat} (hread : s.readable s.rd.bp (n + 2)) (hfill : s.fillAt s.rd.bp (n + 2))
    (hend : s.inLen = s.rd.bp + n + 2) : readMarker s = .error (.raise .formatError s) := by
  obtain ⟨hFF, hrest⟩ := hfill.tail
  rw [readMarker_fill (hread.le (le_refl _) (by omega)) hFF, act_bind,
    skipFill_end (hread.le (n' := n + 1) (by omega) (by omega)) hrest (by omega)]

/-- The marker after `n` fill bytes. -/
theorem readMarker_at {s : State} {n : Nat} (hread : s.readable s.rd.bp (n + 2)) (hfill : s.fillAt s.rd.bp (n + 1))
    (hne : s.inByte (s.rd.bp + n + 1) ≠ 0xFF) : readMarker s =
      if s.inByte (s.rd.bp + n + 1) = 0x00 then .error (.raise .formatError s)
      else .ok (s.inByte (s.rd.bp + n + 1), { s with
        rd := { s.rd with bp := s.rd.bp + n + 2 }, sq := { s.sq with moff := s.rd.bp + n } }) := by
  obtain ⟨hFF, hrest⟩ := hfill.tail
  have hlen := hread.1
  have hj : s.rd.bp + n + 1 = s.rd.bp + 1 + n := by omega
  have hcode : s.readable (s.rd.bp + 1 + n) 1 := hread.le (by omega) (by omega)
  rw [hj] at hne ⊢
  rw [readMarker_fill (hread.le (le_refl _) (by omega)) hFF, act_bind,
    skipFill_ok (by omega) (hread.le (by omega) (by omega)) hrest hne]
  simp only [act_bind, memRead1_ok hcode, act_require, bne_iff_ne, ne_eq]
  by_cases h0 : s.inByte (s.rd.bp + 1 + n) = 0x00
  · simp [h0]
  · simp only [h0, not_false_eq_true, if_true, if_false, act_update, act_pure, show s.rd.bp + 1 + n - 1 = s.rd.bp + n by omega,
      show s.rd.bp + 1 + n + 1 = s.rd.bp + n + 2 by omega]

/-- A code byte with a marker is neither the stuffed 0x00 nor a fill byte (R130). -/
theorem code_of_decodeInstr {m : Byte} {i : Instr} (h : decodeInstr .marker [0xFF, m] = some i) : m ≠ 0x00 ∧ m ≠ 0xFF := by
  constructor <;> rintro rfl <;> cases h

theorem fetch_scan {s : State} (hp : s.sq.phase = .scan) : fetch s = fetchMarker s := by simp [fetch, hp]

theorem step_scan_raise {s : State} (hs : s.script = []) (hp : s.sq.phase = .scan) (hu : s.undisturbed)
    (hr : readMarker s = .error (.raise .formatError s)) : step s = .next (failEntry .formatError s) :=
  step_fetch_raise hs hu (by rw [fetch_scan hp, fetchMarker, act_bind, hr])

/-- Settles O4: the marker at BP by its fill bytes, and the four ways there is none. -/
theorem stepRunsTheNextMarker : Obligations.StepRunsTheNextMarker := by
  constructor
  · intro s n m i hs hp hu hread hfill hm hi
    obtain ⟨h0, hFF⟩ := code_of_decodeInstr hi
    refine step_fetched hs hu ?_
    rw [fetch_scan hp, fetchMarker, act_bind, readMarker_at hread (fun k hk => hfill k (by omega)) (by rwa [hm]), hm, if_neg h0]
    simp only [act_bind, act_orFormatError, hi, act_pure]
  · intro s hs hp hu
    refine ⟨fun hshort => ?_, fun hread hne => ?_, fun n hread hfill hend => ?_, fun n hread hfill h0 => ?_⟩ <;>
      refine step_scan_raise hs hp hu ?_
    · exact readMarker_short hshort
    · exact readMarker_notFF hread hne
    · exact readMarker_unended hread (fun k hk => hfill k (by omega)) hend
    · rw [readMarker_at hread (fun k hk => hfill k (by omega)) (by rw [h0]; decide), if_pos h0]

end Sys2Proof.Machine

namespace Sys2Proof.Machine

/-! ### The entropy walk (R206, R150) -/

/-- Entropy-coded data as it stands in the stream (R150): 0xFF is followed by a stuffed 0x00. -/
def stuffed (data : List Byte) : List Byte := data.flatMap fun b => if b = 0xFF then [0xFF#8, 0x00#8] else [b]

theorem length_le_stuffed : ∀ data : List Byte, data.length ≤ (stuffed data).length
  | [] => le_refl _
  | b :: data => by
    have hrec := length_le_stuffed data
    have hone : 1 ≤ (if b = 0xFF then [0xFF#8, 0x00#8] else [b]).length := by split <;> exact Nat.le_add_left 1 _
    rw [stuffed, List.flatMap_cons, List.length_append, List.length_cons]
    change data.length + 1 ≤ _ + (stuffed data).length
    omega

/-- The `n` bytes of `bytes` stand at an offset. -/
def State.holds (s : State) (off : Nat) (bytes : List Byte) : Prop :=
  s.readable off bytes.length ∧ s.inBytes off bytes.length = bytes

theorem State.holds.append {s : State} {off : Nat} {as bs : List Byte} (h : s.holds off (as ++ bs)) :
    s.holds off as ∧ s.holds (off + as.length) bs := by
  obtain ⟨hread, hbytes⟩ := h
  obtain ⟨hlen, has, hbs⟩ := inBytes_eq_append hbytes
  exact ⟨⟨hread.le (le_refl _) (by omega), has⟩, ⟨hread.le (by omega) (by omega), hbs⟩⟩

theorem State.holds.cons {s : State} {off : Nat} {b : Byte} {bs : List Byte} (h : s.holds off (b :: bs)) :
    s.readable off 1 ∧ s.inByte off = b ∧ s.holds (off + 1) bs := by
  obtain ⟨hb, hbs⟩ := State.holds.append (as := [b]) h
  exact ⟨hb.1, (inBytes_eq_cons hb.2).2.1, hbs⟩

theorem State.holds.fillAt {s : State} {off n : Nat} (h : s.holds off (List.replicate n 0xFF)) : s.readable off n ∧ s.fillAt off n := by
  obtain ⟨hread, hbytes⟩ := h
  rw [List.length_replicate] at hread hbytes
  refine ⟨hread, fun k hk => ?_⟩
  exact List.map_eq_replicate_iff.1 (by rwa [List.length_range]) k (List.mem_range.2 hk)

/-- One byte of data other than 0xFF is passed over. -/
theorem entropyWalk_plain {s : State} {bp : Nat} (fuel : Nat) (hread : s.readable bp 1) (hne : s.inByte bp ≠ 0xFF) :
    entropyWalk (fuel + 1) bp s = entropyWalk fuel (bp + 1) s := by
  have hlt : bp < s.inLen := hread.1
  simp only [entropyWalk, act_bind, act_get, act_require, hlt, decide_true, if_true, memRead1_ok hread, act_ite, if_pos hne]

/-- At 0xFF the walk goes on behind the fill bytes (R206). -/
theorem entropyWalk_fill {s : State} {bp : Nat} (fuel : Nat) (hread : s.readable bp 1) (hFF : s.inByte bp = 0xFF) :
    entropyWalk (fuel + 1) bp s = (skipFill s.inLen (bp + 1) >>= fun j => do
      let q ← memRead1 j
      if q = 0x00 then
        require (j == bp + 1)
        entropyWalk fuel (bp + 2)
      else pure ⟨bp, j, q⟩) s := by
  have hlt : bp < s.inLen := hread.1
  have hFF' : ¬ s.inByte bp ≠ 0xFF := not_not.2 hFF
  simp only [entropyWalk, act_bind, act_get, act_require, hlt, decide_true, if_true, memRead1_ok hread, act_ite, if_neg hFF']

/-- The byte behind `f + 1` bytes 0xFF: a stuffed 0x00 is one only behind a single 0xFF. -/
theorem entropyWalk_code {s : State} {bp f : Nat} {q : Byte} (fuel : Nat) (hq : q ≠ 0xFF)
    (h : s.holds bp (List.replicate (f + 1) 0xFF ++ [q])) :
    entropyWalk (fuel + 1) bp s =
      if q = 0x00 then (if f = 0 then entropyWalk fuel (bp + 2) s else .error (.raise .formatError s))
      else .ok (⟨bp, bp + f + 1, q⟩, s) := by
  obtain ⟨hfill, hcode⟩ := h.append
  rw [List.length_replicate] at hcode
  obtain ⟨hreadq, hbyte, -⟩ := hcode.cons
  obtain ⟨hread, hall⟩ := hfill.fillAt
  obtain ⟨hFF, hrest⟩ := hall.tail
  have hlen := hreadq.1
  have hj : bp + (f + 1) = bp + 1 + f := by omega
  rw [hj] at hreadq hbyte
  have hreadf : s.readable (bp + 1) (f + 1) := by
    refine ⟨by omega, fun k hk => ?_⟩
    rcases Nat.lt_succ_iff_lt_or_eq.1 hk with hlt | rfl
    · exact hread.byte (by omega) (by omega)
    · exact hreadq.byte (le_refl _) (by omega)
  rw [entropyWalk_fill fuel (hread.le (le_refl _) (by omega)) hFF, act_bind,
    skipFill_ok (by omega) hreadf hrest (by rwa [hbyte])]
  have hone : (bp + 1 + f == bp + 1) = decide (f = 0) := by rw [Bool.eq_iff_iff]; simp
  simp only [act_bind, memRead1_ok hreadq, hbyte, act_ite, act_require, act_pure, hone, decide_eq_true_eq]
  rw [show bp + f + 1 = bp + 1 + f by omega]
  by_cases hf : f = 0 <;> simp only [hf, if_true, if_false]

/-- Stuffed data is passed over (R150). -/
theorem entropyWalk_data {s : State} (fuel : Nat) : ∀ {data : List Byte} {bp : Nat}, s.holds bp (stuffed data) →
    entropyWalk (fuel + data.length) bp s = entropyWalk fuel (bp + (stuffed data).length) s
  | [], _, _ => rfl
  | b :: data, bp, h => by
    have hsplit : stuffed (b :: data) = (if b = 0xFF then [0xFF#8, 0x00#8] else [b]) ++ stuffed data := rfl
    rw [hsplit] at h ⊢
    obtain ⟨hhead, htail⟩ := h.append
    rw [List.length_append, ← Nat.add_assoc bp, ← entropyWalk_data fuel htail, List.length_cons, ← Nat.add_assoc]
    by_cases hb : b = 0xFF
    · rw [if_pos hb] at hhead ⊢
      rw [entropyWalk_code (f := 0) _ (by decide) hhead]
      rfl
    · rw [if_neg hb] at hhead ⊢
      obtain ⟨hread, hbyte, -⟩ := hhead.cons
      rw [entropyWalk_plain _ hread (by rwa [hbyte])]
      rfl

/-- Nothing left of the input. -/
theorem entropyWalk_end {s : State} {bp : Nat} (hend : s.inLen = bp) : ∀ fuel, entropyWalk fuel bp s = .error (.raise .formatError s)
  | 0 => rfl
  | fuel + 1 => by simp [entropyWalk, hend]

/-- Fill bytes up to the end of the input. -/
theorem entropyWalk_fill_end {s : State} {bp f : Nat} (fuel : Nat) (h : s.holds bp (List.replicate (f + 1) 0xFF))
    (hend : s.inLen = bp + (f + 1)) : entropyWalk (fuel + 1) bp s = .error (.raise .formatError s) := by
  obtain ⟨hread, hall⟩ := h.fillAt
  obtain ⟨hFF, hrest⟩ := hall.tail
  rw [entropyWalk_fill fuel (hread.le (le_refl _) (by omega)) hFF, act_bind,
    skipFill_end (hread.le (n' := f) (by omega) (by omega)) hrest (by omega)]

theorem walkInterval_ok {s : State} {b : Boundary} (h : entropyWalk (s.inLen + 1) s.rd.bp s = .ok (b, s)) :
    walkInterval s = .ok (b.q, { s with rd := { s.rd with bp := b.start }, sq := { s.sq with moff := b.code - 1 } }) := by
  simp [walkInterval, h]

theorem walkInterval_raise {s : State} {e : ErrKind} (h : entropyWalk (s.inLen + 1) s.rd.bp s = .error (.raise e s)) :
    walkInterval s = .error (.raise e s) := by
  simp [walkInterval, h]

/-- The walk behind the data, with fuel to spare. -/
theorem entropyWalk_behind_data {s : State} {data : List Byte} (h : s.holds s.rd.bp (stuffed data)) :
    ∃ fuel, entropyWalk (s.inLen + 1) s.rd.bp s = entropyWalk (fuel + 1) (s.rd.bp + (stuffed data).length) s := by
  have hlen := h.1.1
  have hle := length_le_stuffed data
  refine ⟨s.inLen - data.length, ?_⟩
  rw [← entropyWalk_data _ h]
  congr 1
  omega

/-! ### The step in entropy data (R206) -/

theorem fetch_entropy {s : State} (hp : s.sq.phase = .entropy) : fetch s = fetchEntropy s := by simp [fetch, hp]

theorem decodeInstr_rst (m : BitVec 3) : decodeInstr .marker [0xFF, 0xD0 ||| m.setWidth 8] = some (.rst m) := by
  revert m; decide

theorem decodeMarker_of_decodeInstr {q : Byte} {i : Instr} (h : decodeInstr .marker [0xFF, q] = some i) : decodeMarker q = .ok i := by
  have hd : decode .marker [0xFF, q] = (decodeMarker q).map (·, []) := rfl
  rw [decodeInstr, hd] at h
  cases hm : decodeMarker q <;> rw [hm] at h <;> cases h
  rfl

/-- A code byte that is no RSTm decodes to no RSTm. -/
theorem decodeInstr_ne_rst {q : Byte} (h : ∀ m : BitVec 3, q ≠ 0xD0 ||| m.setWidth 8) (m : BitVec 3) :
    decodeInstr .marker [0xFF, q] ≠ some (.rst m) := by
  intro hd
  obtain ⟨-, -, henc⟩ := encodedBy_of_decodeMarker (decodeMarker_of_decodeInstr hd)
  exact h m (List.cons.inj (List.cons.inj henc).2).1.symm

theorem fetchEntropy_rst {s t : State} {m : BitVec 3} (h : walkInterval s = .ok (0xD0 ||| m.setWidth 8, t)) :
    fetchEntropy s = .ok (some (.rst m), t) := by
  simp only [fetchEntropy, act_bind, h, decodeInstr_rst, act_pure]

theorem fetchEntropy_other {s t : State} {q : Byte} (h : walkInterval s = .ok (q, t)) (hq : ∀ m : BitVec 3, q ≠ 0xD0 ||| m.setWidth 8) :
    fetchEntropy s = .ok (none, t) := by
  simp only [fetchEntropy, act_bind, h]
  cases hd : decodeInstr .marker [0xFF, q] with
  | none => rfl
  | some i =>
    cases i
    case rst m => exact absurd hd (decodeInstr_ne_rst hq m)
    all_goals rfl

/-- The end of a scan's entropy data: its last interval is recorded, and the marker is read again. -/
theorem endEntropy_ok {s : State} (h : s.roomFor .layoutRecord) :
    let u := s.recorded fun l => l.addInterval ⟨s.sq.ivstart, s.rd.bp - s.sq.ivstart⟩
    endEntropy s = .ok ((), { u with
      rd := { u.rd with bp := s.sq.moff }, sq := { u.sq with scanEnd := s.sq.moff, phase := .scan } }) := by
  simp only [endEntropy, appendInterval, act_bind, act_get, appendRecord_ok _ h, act_update]
  rfl

/-- Settles O6: the walk over the data, then over the fill bytes; the step by the marker found. -/
theorem entropyDataEndsAtAMarker : Obligations.EntropyDataEndsAtAMarker := by
  refine ⟨fun s data f => ?_, fun s t q hs hp hu hw => ⟨fun m hm => ?_, fun hq hroom => ?_⟩, fun s t e hs hp hu hw => ?_⟩
  · change (∀ q, q ≠ 0x00 → q ≠ 0xFF → s.holds s.rd.bp (stuffed data ++ List.replicate (f + 1) 0xFF ++ [q]) → _) ∧
      (s.holds s.rd.bp (stuffed data) → _) ∧ (s.holds s.rd.bp (stuffed data ++ List.replicate (f + 1) 0xFF) → _) ∧
      (1 ≤ f → s.holds s.rd.bp (stuffed data ++ List.replicate (f + 1) 0xFF ++ [0x00]) → _)
    refine ⟨fun q h0 hFF h => ?_, fun h hend => ?_, fun h hend => ?_, fun hf h => ?_⟩
    · rw [List.append_assoc] at h
      obtain ⟨hdata, hcode⟩ := h.append
      obtain ⟨fuel, hwalk⟩ := entropyWalk_behind_data hdata
      rw [entropyWalk_code fuel hFF hcode, if_neg h0] at hwalk
      exact walkInterval_ok hwalk
    · obtain ⟨fuel, hwalk⟩ := entropyWalk_behind_data h
      exact walkInterval_raise (hwalk.trans (entropyWalk_end hend _))
    · obtain ⟨hdata, hfill⟩ := h.append
      obtain ⟨fuel, hwalk⟩ := entropyWalk_behind_data hdata
      rw [List.length_append, List.length_replicate, ← Nat.add_assoc] at hend
      exact walkInterval_raise (hwalk.trans (entropyWalk_fill_end fuel hfill hend))
    · rw [List.append_assoc] at h
      obtain ⟨hdata, hcode⟩ := h.append
      obtain ⟨fuel, hwalk⟩ := entropyWalk_behind_data hdata
      rw [entropyWalk_code fuel (by decide) hcode, if_pos rfl, if_neg (by omega)] at hwalk
      exact walkInterval_raise hwalk
  · subst hm
    exact step_fetched hs hu (by rw [fetch_entropy hp, fetchEntropy_rst hw])
  · rw [step_unfetched hs hu (by rw [fetch_entropy hp, fetchEntropy_other hw hq]), hp]
    exact runAct_ok (endEntropy_ok hroom)
  · exact step_fetch_raise hs hu (by rw [fetch_entropy hp, fetchEntropy, act_bind, hw])

end Sys2Proof.Machine

namespace Sys2Proof.Machine

/-! ### Markers of the layout scan (R131, R202, R213) -/

theorem byPhase_scanning {s : State} (h : s.replaying = false) (scan replay : Act Unit) : byPhase scan replay s = scan s := by
  simp [byPhase, h]

theorem runAct_congr {m m' : Act Unit} {s : State} (h : m s = m' s) : runAct m s = runAct m' s := by
  rw [runAct, runAct, h]

/-- A length field below 2, or a segment that ends beyond the input (R131, R202). -/
theorem readLength_bad {s : State} (hread : s.readable s.rd.bp 2) (hbad : s.inWord s.rd.bp < 2 ∨ s.inLen < s.rd.bp + s.inWord s.rd.bp) :
    readLength s = .error (.raise .formatError s) := by
  have hok : ¬ (2 ≤ s.inWord s.rd.bp ∧ s.rd.bp + s.inWord s.rd.bp ≤ s.inLen) := by omega
  simp [readLength, memRead2_ok hread, hok]

theorem readNf_ok {s : State} {lx : Nat} (h : s.segmentAt lx) (h8 : 8 ≤ lx) (hlx : lx = 8 + 3 * s.frameNf) :
    readNf lx s = .ok (s.frameNf, s) := by
  have hnf : s.readable (s.rd.bp + 7) 1 := h.bytes (by omega) (by omega)
  unfold State.frameNf at hlx ⊢
  simp only [readNf, act_bind, act_getBp, act_require, h8, decide_true, if_true, memRead1_ok hnf, ← hlx, act_pure]

theorem readNf_bad {s : State} {lx : Nat} (h : s.segmentAt lx) (hbad : ¬ (8 ≤ lx ∧ lx = 8 + 3 * s.frameNf)) :
    readNf lx s = .error (.raise .formatError s) := by
  by_cases h8 : 8 ≤ lx
  · have hnf : s.readable (s.rd.bp + 7) 1 := h.bytes (by omega) (by omega)
    have hlx : ¬ lx = 8 + 3 * s.frameNf := fun hlx => hbad ⟨h8, hlx⟩
    unfold State.frameNf at hlx
    simp [readNf, h8, memRead1_ok hnf, hlx]
  · simp [readNf, h8]

/-- A record appended, and BP past the segment. -/
theorem appendRecord_skip {s : State} (f : Layout → Layout) (lx : Nat) (h : s.roomFor .layoutRecord) :
    (appendRecord f >>= fun _ => skipSegment lx) s = .ok ((), (s.recorded f).past lx) := by
  rw [act_bind, appendRecord_ok f h]
  exact skipSegment_ok lx _

/-! ### SOF in the layout scan (R203) -/

/-- A frame of code `n` may stand here: outside a hierarchical image only the first one, and no differential one. -/
def State.admitsFrame (s : State) (n : BitVec 4) : Prop :=
  s.hi.dhp = none → s.arena.layout.frames = [] ∧ n.getLsbD 2 = false

theorem scanSof_refused {s : State} {n : BitVec 4} (h : ¬ s.admitsFrame n) : scanSof n s = .error (.raise .formatError s) := by
  unfold State.admitsFrame at h
  push Not at h
  obtain ⟨hdhp, hframe⟩ := h
  by_cases hnil : s.arena.layout.frames = []
  · have hdiff : sofDifferential n = true := by simpa [sofDifferential] using hframe hnil
    simp [scanSof, State.hierarchical, hdhp, hnil, hdiff]
  · simp [scanSof, State.hierarchical, hdhp, hnil]

theorem scanSof_admitted {s : State} {n : BitVec 4} {lx : Nat} (h : s.admitsFrame n) (hseg : s.segmentAt lx) :
    scanSof n s = (readNf lx >>= fun nf => require (decide (1 ≤ nf) && decide (nf ≤ 4)) >>= fun _ =>
      appendRecord (fun l => l.addFrame s.sq.moff n) >>= fun _ => skipSegment lx) s := by
  have hplace : (s.hierarchical || s.arena.layout.frames.isEmpty) = true ∧ (s.hierarchical || !sofDifferential n) = true := by
    cases hdhp : s.hi.dhp with
    | some d => simp [State.hierarchical, hdhp]
    | none =>
      obtain ⟨hnil, hdiff⟩ := h hdhp
      simp only [State.hierarchical, hdhp, hnil, sofDifferential, hdiff]
      decide
  obtain ⟨hfirst, hdiff⟩ := hplace
  simp only [scanSof, act_bind, act_get, act_require, hfirst, hdiff, if_true, readLength_ok hseg]

/-- Settles O17: the place of the frame, then its length and Nf, then its record. -/
theorem sofRecordsAFrame : Obligations.SofRecordsAFrame := by
  intro n i s hi hscan
  have hexec : exec i s = runAct (scanSof n) s := (exec_sof hi s).trans (runAct_congr (byPhase_scanning hscan _ _))
  rw [hexec]
  refine ⟨fun hdhp hbad => runAct_raise (scanSof_refused fun h => ?_), fun lx hseg hplace => ?_⟩
  · obtain ⟨hnil, hdiff⟩ := h hdhp
    exact hbad.elim (fun hne => hne hnil) fun ht => Bool.noConfusion (ht.symm.trans hdiff)
  · intro nf
    change (8 ≤ lx → lx = 8 + 3 * s.frameNf → 1 ≤ s.frameNf → s.frameNf ≤ 4 → _) ∧
      (lx < 8 ∨ lx ≠ 8 + 3 * s.frameNf ∨ s.frameNf < 1 ∨ 4 < s.frameNf → _)
    have hadmitted := scanSof_admitted hplace hseg
    refine ⟨fun h8 hlx h1 h4 hroom => runAct_ok ?_, fun hbad => runAct_raise ?_⟩ <;> rw [hadmitted, act_bind]
    · rw [readNf_ok hseg h8 hlx]
      have hnf : (decide (1 ≤ s.frameNf) && decide (s.frameNf ≤ 4)) = true := by simp [h1, h4]
      simp only [act_bind _ (fun _ => appendRecord _ >>= _), act_require, hnf, if_true]
      exact appendRecord_skip _ lx hroom
    · by_cases hlen : 8 ≤ lx ∧ lx = 8 + 3 * s.frameNf
      · have hnf : (decide (1 ≤ s.frameNf) && decide (s.frameNf ≤ 4)) = false := by
          simp only [Bool.and_eq_false_iff, decide_eq_false_iff_not]
          omega
        rw [readNf_ok hseg hlen.1 hlen.2]
        simp [hnf]
      · rw [readNf_bad hseg hlen]

/-! ### DHP and EOI (R209, R210) -/

theorem scanDhp_refused {s : State} (h : s.hi.dhp ≠ none ∨ s.arena.layout.frames ≠ []) :
    scanDhp s = .error (.raise .formatError s) := by
  have hplace : (!s.hierarchical && s.arena.layout.frames.isEmpty) = false := by
    rcases h with h | h <;> simp [State.hierarchical, h]
  simp [scanDhp, hplace]

theorem scanDhp_admitted {s : State} {lx : Nat} (hdhp : s.hi.dhp = none) (hnil : s.arena.layout.frames = []) (hseg : s.segmentAt lx) :
    scanDhp s = (readFrameHeader lx >>= fun h =>
      update (fun s => { s with
        hi := { s.hi with dhp := some ⟨BitVec.ofNat 8 h.p, BitVec.ofNat 16 h.y, BitVec.ofNat 16 h.x, h.comps.map fun c => (c.1, c.2.1, c.2.2.1)⟩ }
        arena := { s.arena with layout := { s.arena.layout with dhpOff := some s.sq.moff } }
        regs := { s.regs with info := infoMark s.regs.info 3 } }) >>= fun _ => skipSegment lx) s := by
  simp [scanDhp, State.hierarchical, hdhp, hnil, readLength_ok hseg]

/-- The components that a DHP declares (R141). -/
theorem frameHeader_dhpComps (s : State) : (s.frameHeader.comps.map fun c => (c.1, c.2.1, c.2.2.1)) =
    (List.range s.frameNf).map fun k =>
      (s.inByte (s.rd.bp + 8 + 3 * k), (s.inByte (s.rd.bp + 9 + 3 * k)).toNat / 16, (s.inByte (s.rd.bp + 9 + 3 * k)).toNat % 16) := by
  rw [State.frameHeader, List.map_map]
  rfl

/-- What EOI asks of the layout (R210, R226). -/
def State.layoutComplete (s : State) : Prop :=
  ¬ (s.hi.dhp = none ∧ ∃ a ∈ s.arena.layout.aux, a.marker = .exp) ∧ s.arena.layout.frames ≠ [] ∧
    ∀ f ∈ s.arena.layout.frames, f.scans ≠ []

theorem layoutComplete_iff (s : State) : s.layoutComplete ↔
    (s.hierarchical || s.arena.layout.aux.all fun a => a.marker != .exp) = true ∧
    (!s.arena.layout.frames.isEmpty && s.arena.layout.frames.all fun f => !f.scans.isEmpty) = true := by
  unfold State.layoutComplete State.hierarchical
  cases s.hi.dhp <;> simp

theorem scanEoi_complete {s : State} (h : s.layoutComplete) : scanEoi s =
    .ok ((), { s with sq := { s.sq with phase := .replaySof, frameIx := 0, scanIx := 0, auxPos := 0 } }) := by
  obtain ⟨hexp, hframes⟩ := (layoutComplete_iff s).1 h
  simp only [scanEoi, act_bind, act_get, act_require, act_update, hexp, hframes, if_true]

theorem scanEoi_incomplete {s : State} (h : ¬ s.layoutComplete) : scanEoi s = .error (.raise .formatError s) := by
  rw [layoutComplete_iff] at h
  simp only [scanEoi, act_bind, act_get, act_require, act_update]
  split_ifs with hexp hframes
  · exact absurd ⟨hexp, hframes⟩ h
  all_goals rfl

/-- Settles O19: the place of the DHP, then its length; EOI by what the layout holds. -/
theorem dhpAndEoi : Obligations.DhpAndEoi := by
  refine ⟨fun s => ⟨fun hbad => runAct_raise (scanDhp_refused hbad), fun lx hseg hdhp hnil => ?_⟩, fun s => ?_⟩
  · intro bp nf
    have hadmitted := scanDhp_admitted hdhp hnil hseg
    refine ⟨fun h8 hlx => runAct_ok ?_, fun hbad => runAct_raise ?_⟩ <;> rw [hadmitted, act_bind]
    · rw [readFrameHeader_ok hseg h8 hlx]
      simp only [act_bind, act_update, skipSegment_ok, frameHeader_dhpComps]
      simp only [State.frameHeader, BitVec.ofNat_toNat, BitVec.setWidth_eq]
      rfl
    · rw [readFrameHeader_bad hseg fun h => hbad.elim (fun h8 => absurd h.1 (by omega)) fun hlx => hlx h.2]
  · intro strayExp
    refine ⟨fun hbad => runAct_raise (scanEoi_incomplete ?_), fun hne hall hno => runAct_ok (scanEoi_complete ⟨hno, hne, hall⟩)⟩
    rintro ⟨hno, hne, hall⟩
    rcases hbad with hnil | ⟨f, hf, hscans⟩ | hstray
    · exact hne hnil
    · exact hall f hf hscans
    · exact hno hstray

/-! ### Application and skipped segments (R211, R212) -/

theorem payloadStarts_ok {s : State} {lx : Nat} (h : s.segmentAt lx) (ident : List Byte) :
    payloadStarts lx ident s = .ok (decide ((s.payload lx).take ident.length = ident), s) := by
  by_cases hlen : lx < 2 + ident.length
  · have hne : (s.payload lx).take ident.length ≠ ident := by
      intro heq
      have := congrArg List.length heq
      rw [List.length_take, State.payload, length_inBytes] at this
      have := h.le
      omega
    simp [payloadStarts, hlen, hne]
  · have hread : s.readable (s.rd.bp + 2) ident.length := h.bytes (by omega) (by omega)
    have htake : (s.payload lx).take ident.length = s.inBytes (s.rd.bp + 2) ident.length := take_inBytes s _ (by omega)
    simp only [payloadStarts, act_bind, act_getBp, if_neg hlen, memReadList_ok hread, act_pure, htake]
    congr 2
    exact beq_eq_decide _ _

theorem appMatches_ok {s : State} {lx : Nat} (h : s.segmentAt lx) (ident : List Byte) (slot : Layout → Option Nat) :
    appMatches lx ident slot s = .ok (decide (s.appHit lx ident (slot s.arena.layout)), s) := by
  simp only [appMatches, act_bind, act_get, payloadStarts_ok h, act_pure]
  congr 2
  rw [Bool.eq_iff_iff]
  simp [and_assoc]

/-- What an application marker does where its segment counts, and where it does not (R211, R212). -/
theorem appSegment_eq {s : State} {lx : Nat} (h : s.segmentAt lx) (ident : List Byte) (slot : Layout → Option Nat) (hit : Nat → Act Unit) :
    (readLength >>= fun lx => appMatches lx ident slot >>= fun b => if b then hit lx else pure () >>= fun _ => skipSegment lx) s =
      if s.appHit lx ident (slot s.arena.layout) then hit lx s else .ok ((), s.past lx) := by
  simp only [act_bind, readLength_ok h, appMatches_ok h, act_ite, decide_eq_true_eq, act_pure, skipSegment_ok]

section
variable {s : State} {lx : Nat} (h : s.segmentAt lx)
include h

theorem scanApp0_eq : scanApp0 s = if s.appHit lx jfifIdent s.arena.layout.jfifOff then
    .ok ((), { s.past lx with
      arena := { s.arena with layout := { s.arena.layout with jfifOff := some s.sq.moff } }
      regs := { s.regs with info := s.regs.info ||| 1 } })
    else .ok ((), s.past lx) :=
  (appSegment_eq h jfifIdent _ _).trans rfl

theorem scanApp1_eq : scanApp1 s = if s.appHit lx exifIdent s.arena.layout.exifOff then
    .ok ((), { s.past lx with
      arena := { s.arena with layout := { s.arena.layout with exifOff := some s.sq.moff } }
      regs := { s.regs with
        info := s.regs.info ||| 2
        exifOff := BitVec.ofNat 32 (s.sq.moff + 4 + 6), exifLen := BitVec.ofNat 32 (lx - 8) } })
    else .ok ((), s.past lx) :=
  (appSegment_eq h exifIdent _ _).trans rfl

/-- The transform code of an Adobe segment (R143). -/
theorem readAdobeT_ok : readAdobeT lx s = .ok (if lx < 14 then none else some (s.inByte (s.rd.bp + 13)), s) := by
  by_cases hlen : lx < 14
  · simp only [readAdobeT, act_bind, act_getBp, if_pos hlen, act_pure]
  · have hread : s.readable (s.rd.bp + 13) 1 := h.bytes (by omega) (by omega)
    simp only [readAdobeT, act_bind, act_getBp, if_neg hlen, memRead1_ok hread, act_pure]

theorem scanApp14_eq : scanApp14 s = if s.appHit lx adobeIdent s.arena.layout.adobeOff then
    .ok ((), { s.past lx with
      arena := { s.arena with layout := { s.arena.layout with adobeOff := some s.sq.moff } }
      hi := { s.hi with adobeT := if lx < 14 then none else some (s.inByte (s.rd.bp + 13)) }
      regs := { s.regs with info := s.regs.info ||| 4 } })
    else .ok ((), s.past lx) := by
  refine (appSegment_eq h adobeIdent _ _).trans ?_
  simp only [act_bind, readAdobeT_ok h]
  rfl

theorem scanSkip_ok : scanSkip s = .ok ((), s.past lx) := by
  rw [scanSkip, act_bind, readLength_ok h]
  exact skipSegment_ok lx s

end

/-- A skipped segment's marker runs as such (R212). -/
theorem exec_skipped {i : Instr} (hi : isSkipped i = true) (s : State) : exec i s = runAct scanSkip s := by
  cases i
  case app2 | app4 | app8 | app12 | app15 | com => rfl
  all_goals cases hi

/-- A table marker of the layout scan runs as such (R213). -/
theorem exec_aux {s : State} (hscan : s.replaying = false) (k : AuxKind) : exec k.instr s = runAct (scanAux k) s := by
  cases k <;> exact runAct_congr (byPhase_scanning hscan _ _)

/-- A marker whose first act is to read the length of its segment fails where that is bad. -/
theorem exec_badLength {s : State} (hbad : readLength s = .error (.raise .formatError s)) {i : Instr} (k : Nat → Act Unit)
    (hexec : exec i s = runAct (readLength >>= k) s) : exec i s = .next (failEntry .formatError s) :=
  hexec.trans (runAct_bind_raise hbad)

/-- Settles O20: each application segment by whether it counts; the skipped ones; the length field that all of them read first. -/
theorem applicationAndSkippedSegments : Obligations.ApplicationAndSkippedSegments := by
  refine ⟨fun s lx hseg => ⟨fun hhit => runAct_ok ?_, fun hhit => runAct_ok ?_, fun hhit => runAct_ok ?_⟩,
    fun i s lx hseg hskip => ?_, fun i s hi hread hlen => ?_⟩
  · rw [scanApp0_eq hseg, if_pos hhit]
  · rw [scanApp1_eq hseg, if_pos hhit]
  · rw [scanApp14_eq hseg, if_pos hhit]
  · rcases hskip with hi | ⟨p, hp, rfl, hmiss⟩
    · rw [exec_skipped hi]
      exact runAct_ok (scanSkip_ok hseg)
    · simp only [appMarkers, List.mem_cons, List.not_mem_nil, or_false] at hp
      rcases hp with rfl | rfl | rfl
      · exact runAct_ok ((scanApp0_eq hseg).trans (if_neg hmiss))
      · exact runAct_ok ((scanApp1_eq hseg).trans (if_neg hmiss))
      · exact runAct_ok ((scanApp14_eq hseg).trans (if_neg hmiss))
  · have hbad := readLength_bad hread hlen
    rcases hi with hi | hi | ⟨hscan, k, -, rfl⟩
    · exact exec_badLength hbad _ (exec_skipped hi s)
    · simp only [List.mem_cons, List.not_mem_nil, or_false] at hi
      rcases hi with rfl | rfl | rfl <;> exact exec_badLength hbad _ rfl
    · refine (exec_aux hscan k).trans (runAct_raise ?_)
      simp only [scanAux, act_bind, act_get, hbad]

/-! ### Table markers recorded (R213, R224) -/

theorem scanAux_recorded {s : State} {lx : Nat} {k : AuxKind} (hseg : s.segmentAt lx) (hroom : s.roomFor .layoutRecord)
    (hplace : k = .dnl → dnlPlace lx s = .ok ((), s)) :
    scanAux k s = .ok ((), (s.recorded fun l => l.addAux s.sq.moff k).past lx) := by
  simp only [scanAux, act_bind _ (fun s => readLength >>= _), act_get, act_bind readLength, readLength_ok hseg]
  by_cases hk : k = .dnl
  · rw [if_pos hk, act_bind, hplace hk]
    exact appendRecord_skip _ lx hroom
  · rw [if_neg hk]
    exact appendRecord_skip _ lx hroom

theorem scanAux_refused {s : State} {lx : Nat} (hseg : s.segmentAt lx) (hplace : dnlPlace lx s = .error (.raise .formatError s)) :
    scanAux .dnl s = .error (.raise .formatError s) := by
  simp only [scanAux, act_bind, act_get, readLength_ok hseg, if_true, hplace]

theorem dnlPlace_noFrame {s : State} {lx : Nat} (h : lx ≠ 4 ∨ s.arena.layout.frames = []) :
    dnlPlace lx s = .error (.raise .formatError s) := by
  by_cases hlx : lx = 4
  · simp [dnlPlace, hlx, h.resolve_left (not_not.2 hlx)]
  · simp [dnlPlace, hlx]

/-- Behind which frame a DNL may stand (R224, log 17). -/
theorem dnlPlace_frame {s : State} {f : FrameRec} (hf : s.arena.layout.frames.getLast? = some f) (hread : s.readable (f.sofOff + 5) 2) :
    dnlPlace 4 s = if s.inWord (f.sofOff + 5) ≠ 0 ∨ (f.scans.length = 1 ∧ s.sq.moff = s.sq.scanEnd) then .ok ((), s)
      else .error (.raise .formatError s) := by
  simp [dnlPlace, hf, memRead2_ok hread]

/-- Settles O21: the place of a DNL, then the record. -/
theorem tableMarkersAreRecorded : Obligations.TableMarkersAreRecorded := by
  intro k s lx _ hscan hseg hroom recorded
  have hdnl : exec .dnl s = runAct (scanAux .dnl) s := exec_aux hscan .dnl
  refine ⟨fun hk => ?_, fun _ hbad => ?_, fun f hk hlx hf hread => ⟨fun hplace => ?_, fun h0 hnot => ?_⟩⟩
  · rw [exec_aux hscan k]
    exact runAct_ok (scanAux_recorded hseg hroom fun h => absurd h hk)
  · rw [hdnl]
    exact runAct_raise (scanAux_refused hseg (dnlPlace_noFrame hbad))
  · subst hk hlx
    rw [hdnl]
    exact runAct_ok (scanAux_recorded hseg hroom fun _ => (dnlPlace_frame hf hread).trans (if_pos hplace))
  · subst hlx
    rw [hdnl]
    refine runAct_raise (scanAux_refused hseg ((dnlPlace_frame hf hread).trans (if_neg ?_)))
    exact fun h => h.elim (fun hne => hne h0) hnot

end Sys2Proof.Machine

namespace Sys2Proof.Machine

/-! ### The definitions of a DQT payload (R137, R221) -/

/-- The bytes of an entry (R137). -/
def entryBytes (wide : Bool) (e : BitVec 16) : List Byte := if wide then [(e >>> 8).setWidth 8, e.setWidth 8] else [e.setWidth 8]

/-- The bytes that an entry takes. -/
def entryWidth (wide : Bool) : Nat := if wide then 2 else 1

theorem length_entries (wide : Bool) : ∀ es : List (BitVec 16), (es.flatMap (entryBytes wide)).length = entryWidth wide * es.length
  | [] => rfl
  | e :: es => by
    have hone : (entryBytes wide e).length = entryWidth wide := by cases wide <;> rfl
    rw [List.flatMap_cons, List.length_append, hone, length_entries wide es, List.length_cons]
    ring

theorem QuantDef.length_bytes (d : QuantDef) : d.bytes.length = 1 + 64 * entryWidth d.wide := by
  have hentries : (d.entries.toList.flatMap (entryBytes d.wide)).length = 64 * entryWidth d.wide := by
    rw [length_entries, Vector.length_toList, Nat.mul_comm]
  rw [Nat.add_comm, ← hentries]
  rfl

/-- An entry of a table is read as it was written: two bytes, or one where it fits. -/
theorem readQEntries_cons {s : State} {p : Nat} {wide : Bool} {e : BitVec 16} (h : s.holds p (entryBytes wide e))
    (hfit : wide = true ∨ e.toNat < 256) (n : Nat) : readQEntries (entryWidth wide) (n + 1) p s =
      (readQEntries (entryWidth wide) n (p + entryWidth wide) >>= fun rest => pure (e :: rest)) s := by
  cases wide with
  | false =>
    obtain ⟨hread, hbyte, -⟩ := State.holds.cons h
    have hval : (e.setWidth 8).setWidth 16 = e := by
      have hsmall : e.toNat < 256 := by simpa using hfit
      apply BitVec.eq_of_toNat_eq
      rw [BitVec.toNat_setWidth, BitVec.toNat_setWidth]
      omega
    simp [readQEntries, entryWidth, memRead1_ok hread, hbyte, hval]
  | true =>
    obtain ⟨-, hhi, htail⟩ := State.holds.cons h
    obtain ⟨-, hlo, -⟩ := htail.cons
    have hval : BitVec.ofNat 16 (s.inWord p) = e := by
      have := e.isLt
      apply BitVec.eq_of_toNat_eq
      rw [State.inWord, hhi, hlo, BitVec.toNat_ofNat, BitVec.toNat_setWidth, BitVec.toNat_setWidth, BitVec.toNat_ushiftRight,
        Nat.shiftRight_eq_div_pow]
      omega
    have hword : memRead2 p s = .ok (s.inWord p, s) := memRead2_ok h.1
    simp [readQEntries, entryWidth, hword, hval]

theorem readQEntries_ok {s : State} {wide : Bool} : ∀ {es : List (BitVec 16)} {p : Nat}, s.holds p (es.flatMap (entryBytes wide)) →
    (∀ e ∈ es, wide = true ∨ e.toNat < 256) → readQEntries (entryWidth wide) es.length p s = .ok (es, s)
  | [], _, _, _ => rfl
  | e :: es, p, h, hfit => by
    obtain ⟨hhead, htail⟩ := State.holds.append h
    have hone : (entryBytes wide e).length = entryWidth wide := by cases wide <;> rfl
    rw [hone] at htail
    rw [List.length_cons, readQEntries_cons hhead (hfit e List.mem_cons_self), act_bind,
      readQEntries_ok htail fun x hx => hfit x (List.mem_cons_of_mem e hx)]
    rfl

theorem qtableOf_toList (q : QTable) : qtableOf q.toList = q := by
  ext k hk
  simp [qtableOf, lget]

theorem QuantDef.fits {d : QuantDef} (h : d.ok = true) : ∀ e ∈ d.entries.toList, d.wide = true ∨ e.toNat < 256 := by
  intro e he
  simp only [QuantDef.ok, Bool.or_eq_true, List.all_eq_true, decide_eq_true_eq] at h
  exact h.imp id fun hall => hall e he

theorem dqtTables_end (fuel e : Nat) (s : State) : dqtTables (fuel + 1) e e s = .ok ((), s) := by
  simp [dqtTables]

/-- One definition of the payload (R221). -/
theorem dqtTables_define {s : State} {p n : Nat} {d : QuantDef} (hok : d.ok = true) (hn : d.bytes.length ≤ n)
    (h : s.holds p d.bytes) (fuel : Nat) :
    dqtTables (fuel + 1) p (p + n) s = dqtTables fuel (p + d.bytes.length) (p + n) { s with tb := s.tb.define d } := by
  obtain ⟨hread, hfirst, hentries⟩ := State.holds.cons h
  have hcls := (huffDef_nibbles d.wide d.slot).1
  have hslot := (huffDef_nibbles d.wide d.slot).2
  rw [← hfirst] at hcls hslot
  have hslot3 : d.slot.toNat ≤ 3 := Nat.le_of_lt_succ d.slot.isLt
  have hw : hiNibble (s.inByte p) + 1 = entryWidth d.wide := by rw [hcls]; cases d.wide <;> rfl
  have hcls1 : hiNibble (s.inByte p) ≤ 1 := by rw [hcls]; cases d.wide <;> decide
  have hlist : readQEntries (entryWidth d.wide) 64 (p + 1) s = .ok (d.entries.toList, s) := by
    have := readQEntries_ok hentries (QuantDef.fits hok)
    rwa [Vector.length_toList] at this
  rw [QuantDef.length_bytes] at hn ⊢
  rw [← Nat.add_assoc]
  have hfit : p + 1 + 64 * entryWidth d.wide ≤ p + n := by omega
  have hlt : p < p + n := by omega
  simp only [dqtTables, act_bind, act_ite, if_pos hlt, memRead1_ok hread, act_require, hcls1, hslot, hslot3, hw, hfit, decide_true,
    Bool.and_self, if_true, hlist, act_update, qtableOf_toList]
  rfl

/-- The definitions at the head of the payload, one after another (R221). -/
theorem dqtTables_defines {rest : List Byte} (fuel : Nat) : ∀ {ds : List QuantDef} {s : State} {p n : Nat},
    (∀ d ∈ ds, d.ok = true) → s.holds p (ds.flatMap QuantDef.bytes ++ rest) → n = (ds.flatMap QuantDef.bytes ++ rest).length →
    dqtTables (fuel + ds.length) p (p + n) s =
      dqtTables fuel (p + (ds.flatMap QuantDef.bytes).length) (p + n) { s with tb := ds.foldl Tables.define s.tb }
  | [], _, _, _, _, _, _ => rfl
  | d :: ds, s, p, n, hok, h, hn => by
    rw [List.flatMap_cons, List.append_assoc] at h hn
    rw [List.length_append] at hn
    obtain ⟨hhead, htail⟩ := h.append
    have htail' : State.holds { s with tb := s.tb.define d } (p + d.bytes.length) (ds.flatMap QuantDef.bytes ++ rest) := htail
    have hrec := dqtTables_defines fuel (fun e he => hok e (List.mem_cons_of_mem d he)) htail' rfl
    rw [Nat.add_assoc p, ← hn] at hrec
    rw [List.length_cons, ← Nat.add_assoc, dqtTables_define (hok d List.mem_cons_self) (by omega) hhead, hrec, List.flatMap_cons,
      List.length_append, Nat.add_assoc p, List.foldl_cons]

/-- A definition that fails a check ends the operation (R221). -/
theorem dqtTables_bad {s : State} {p : Nat} {b : Byte} {rest : List Byte} (h : s.holds p (b :: rest))
    (hbad : 1 < b.toNat / 16 ∨ 3 < b.toNat % 16 ∨ rest.length < 64 * (b.toNat / 16 + 1)) (fuel : Nat) :
    dqtTables (fuel + 1) p (p + (rest.length + 1)) s = .error (.raise .formatError s) := by
  obtain ⟨hread, hfirst, -⟩ := State.holds.cons h
  by_cases hsel : hiNibble b ≤ 1 ∧ loNibble b ≤ 3
  · have hshort : ¬ p + 1 + 64 * (hiNibble b + 1) ≤ p + (rest.length + 1) := by
      unfold hiNibble loNibble at *
      omega
    simp [dqtTables, memRead1_ok hread, hfirst, hsel, hshort]
  · simp [dqtTables, memRead1_ok hread, hfirst, hsel]

/-- Every definition takes bytes of the payload. -/
theorem length_le_quantDefs : ∀ ds : List QuantDef, ds.length ≤ (ds.flatMap QuantDef.bytes).length
  | [] => le_refl _
  | d :: ds => by
    have htail := length_le_quantDefs ds
    rw [List.flatMap_cons, List.length_append, QuantDef.length_bytes, List.length_cons]
    omega

/-- The segment of a DQT, replayed: its tables, then BP past it. -/
theorem replayDqt_eq {s : State} {lx : Nat} (h : s.segmentAt lx) :
    replayDqt s = (dqtTables (lx + 1) (s.rd.bp + 2) (s.rd.bp + 2 + (lx - 2)) >>= fun _ => skipSegment lx) s := by
  have hend : s.rd.bp + 2 + (lx - 2) = s.rd.bp + lx := by have := h.le; omega
  simp only [replayDqt, act_bind, readLength_ok h, act_getBp, hend]

/-- The payload of the segment stands behind its length field. -/
theorem State.segmentAt.holds_payload {s : State} {lx : Nat} (h : s.segmentAt lx) {bs : List Byte} (hpay : s.payload lx = bs) :
    lx - 2 = bs.length ∧ s.holds (s.rd.bp + 2) bs := by
  subst hpay
  have hlen : (s.payload lx).length = lx - 2 := length_inBytes s _ _
  refine ⟨hlen.symm, ?_, ?_⟩ <;> rw [hlen]
  · exact h.payload
  · rfl

/-- Settles O24: the payload's definitions by induction, then its end, or the definition that fails. -/
theorem dqtDefinesTables : Obligations.DqtDefinesTables := by
  intro s lx ds hreplay hseg hok t
  have hexec : exec .dqt s = runAct replayDqt s := runAct_congr (byPhase_replaying hreplay _ _)
  have hcount := length_le_quantDefs ds
  refine ⟨fun hpay => ?_, fun b rest hpay hbad => ?_⟩ <;> rw [hexec]
  · rw [← List.append_nil (ds.flatMap _)] at hpay
    obtain ⟨hlen, hholds⟩ := hseg.holds_payload hpay
    obtain ⟨fuel, hfuel⟩ : ∃ fuel, lx + 1 = fuel + 1 + ds.length := ⟨lx - ds.length, by rw [List.length_append] at hlen; omega⟩
    refine runAct_ok ?_
    rw [replayDqt_eq hseg, act_bind, hfuel, dqtTables_defines (fuel + 1) hok hholds hlen, hlen, List.append_nil, dqtTables_end]
    exact skipSegment_ok lx t
  · obtain ⟨hlen, hholds⟩ := hseg.holds_payload hpay
    obtain ⟨fuel, hfuel⟩ : ∃ fuel, lx + 1 = fuel + 1 + ds.length := ⟨lx - ds.length, by rw [List.length_append] at hlen; omega⟩
    have hbytes : t.holds (s.rd.bp + 2 + (ds.flatMap QuantDef.bytes).length) (b :: rest) := hholds.append.2
    refine runAct_raise ?_
    rw [replayDqt_eq hseg, act_bind, hfuel, dqtTables_defines (fuel + 1) hok hholds hlen, hlen, List.length_append, ← Nat.add_assoc,
      List.length_cons, dqtTables_bad hbytes hbad]

end Sys2Proof.Machine

namespace Sys2Proof.Machine

/-! ### The fields of a scan header (R135, R219) -/

/-- Ns of the segment at BP. -/
def State.scanNs (s : State) : Nat := (s.inByte (s.rd.bp + 2)).toNat

/-- What the header asks of its length (R135). -/
def State.scanLengthOk (s : State) (lx : Nat) : Prop := 3 ≤ lx ∧ lx = 6 + 2 * s.scanNs ∧ 1 ≤ s.scanNs ∧ s.scanNs ≤ 4

/-- Component `j` of the scan header whose components stand from `p` on (R135). -/
def State.scanComp (s : State) (p j : Nat) : Byte × Nat × Nat :=
  (s.inByte (p + 2 * j), (s.inByte (p + 1 + 2 * j)).toNat / 16, (s.inByte (p + 1 + 2 * j)).toNat % 16)

/-- The scan header of the segment at BP. -/
def State.scanHeader (s : State) : ScanHeader where
  comps := (List.range s.scanNs).map (s.scanComp (s.rd.bp + 3))
  ss := (s.inByte (s.rd.bp + 3 + 2 * s.scanNs)).toNat
  se := (s.inByte (s.rd.bp + 4 + 2 * s.scanNs)).toNat
  ah := (s.inByte (s.rd.bp + 5 + 2 * s.scanNs)).toNat / 16
  al := (s.inByte (s.rd.bp + 5 + 2 * s.scanNs)).toNat % 16

theorem readScanComps_ok {s : State} : ∀ {n p : Nat}, s.readable p (2 * n) →
    readScanComps n p s = .ok ((List.range n).map (s.scanComp p), s)
  | 0, _, _ => rfl
  | n + 1, p, h => by
    have hid : s.readable p 1 := h.le (le_refl _) (by omega)
    have ht : s.readable (p + 1) 1 := h.le (by omega) (by omega)
    have hrest : s.readable (p + 2) (2 * n) := h.le (by omega) (by omega)
    have hshift : s.scanComp p ∘ Nat.succ = s.scanComp (p + 2) := by
      funext j
      have h0 : p + 2 * Nat.succ j = p + 2 + 2 * j := by omega
      have h1 : p + 1 + 2 * Nat.succ j = p + 2 + 1 + 2 * j := by omega
      simp only [Function.comp_apply, State.scanComp, h0, h1]
    rw [List.range_succ_eq_map, List.map_cons, List.map_map, hshift]
    simp only [readScanComps, act_bind, memRead1_ok hid, memRead1_ok ht, readScanComps_ok hrest, act_pure]
    rfl

theorem readNs_ok {s : State} {lx : Nat} (h : s.segmentAt lx) (hlen : s.scanLengthOk lx) : readNs lx s = .ok (s.scanNs, s) := by
  obtain ⟨h3, hlx, h1, h4⟩ := hlen
  have hns : s.readable (s.rd.bp + 2) 1 := h.bytes (by omega) (by omega)
  unfold State.scanNs at hlx h1 h4 ⊢
  simp only [readNs, act_bind, act_getBp, act_require, h3, decide_true, if_true, memRead1_ok hns, ← hlx, h1, h4, Bool.and_self, act_pure]

theorem readNs_bad {s : State} {lx : Nat} (h : s.segmentAt lx) (hlen : ¬ s.scanLengthOk lx) :
    readNs lx s = .error (.raise .formatError s) := by
  unfold State.scanLengthOk at hlen
  by_cases h3 : 3 ≤ lx
  · have hns : s.readable (s.rd.bp + 2) 1 := h.bytes (by omega) (by omega)
    have hbad : ¬ ((lx = 6 + 2 * s.scanNs ∧ 1 ≤ s.scanNs) ∧ s.scanNs ≤ 4) := by omega
    unfold State.scanNs at hbad
    simp only [readNs, act_bind, act_getBp, act_require, h3, decide_true, if_true, memRead1_ok hns, Bool.and_eq_true, decide_eq_true_eq,
      if_neg hbad]
  · simp [readNs, h3]

theorem readScanHeader_ok {s : State} {lx : Nat} (h : s.segmentAt lx) (hlen : s.scanLengthOk lx) :
    readScanHeader lx s = .ok (s.scanHeader, s) := by
  obtain ⟨h3, hlx, h1, h4⟩ := id hlen
  have hcomps : s.readable (s.rd.bp + 3) (2 * s.scanNs) := h.bytes (by omega) (by omega)
  have hss : s.readable (s.rd.bp + 3 + 2 * s.scanNs) 1 := h.bytes (by omega) (by omega)
  have hse : s.readable (s.rd.bp + 4 + 2 * s.scanNs) 1 := h.bytes (by omega) (by omega)
  have ha : s.readable (s.rd.bp + 5 + 2 * s.scanNs) 1 := h.bytes (by omega) (by omega)
  simp only [readScanHeader, act_bind, act_getBp, readNs_ok h hlen, readScanComps_ok hcomps, memRead1_ok hss, memRead1_ok hse,
    memRead1_ok ha, act_pure]
  rfl

/-! ### The components a scan selects (R219) -/

/-- A scan component matches a frame component: its ID, and table selectors in range. -/
def Selects (ids : List Byte) (c : Nat) (e : Byte × Nat × Nat) : Prop := ids[c]? = some e.1 ∧ e.2.1 ≤ 3 ∧ e.2.2 ≤ 3

/-- Where no ID occurs twice, the search for one finds its place. -/
theorem findIdx?_id {ids : List Byte} (hn : ids.Nodup) {b : Byte} {i : Nat} :
    ids.findIdx? (· == b) = some i ↔ ids[i]? = some b := by
  rw [List.findIdx?_eq_some_iff_getElem]
  constructor
  · rintro ⟨hi, hb, -⟩
    rw [List.getElem?_eq_getElem hi, eq_of_beq hb]
  · intro hb
    obtain ⟨hi, hget⟩ := List.getElem?_eq_some_iff.1 hb
    refine ⟨hi, by simp [hget], fun j hj => ?_⟩
    have hne : ids[j] ≠ ids[i] := fun heq => hj.ne ((hn.getElem_inj_iff).1 heq)
    simpa [← hget] using hne

theorem matchComps_cons {ids : List Byte} {lo : Nat} {e : Byte × Nat × Nat} {rest : List (Byte × Nat × Nat)} {cs : List Nat} :
    matchComps ids lo (e :: rest) = some cs ↔ ∃ i tail, ids.findIdx? (· == e.1) = some i ∧ (lo ≤ i ∧ e.2.1 ≤ 3 ∧ e.2.2 ≤ 3) ∧
      matchComps ids (i + 1) rest = some tail ∧ cs = i :: tail := by
  obtain ⟨b, td, ta⟩ := e
  rw [matchComps]
  cases ids.findIdx? (· == b) with
  | none => simp
  | some i =>
    by_cases hsel : lo ≤ i ∧ td ≤ 3 ∧ ta ≤ 3
    · simp [hsel, eq_comm]
    · simp [hsel]

/-- The components found are those in frame order that match one for one (R219). -/
theorem matchComps_iff {ids : List Byte} (hn : ids.Nodup) : ∀ {comps : List (Byte × Nat × Nat)} {lo : Nat} {cs : List Nat},
    matchComps ids lo comps = some cs ↔ cs.Pairwise (· < ·) ∧ (∀ c ∈ cs, lo ≤ c) ∧ List.Forall₂ (Selects ids) cs comps
  | [], lo, cs => by
    rw [List.forall₂_nil_right_iff]
    constructor
    · rintro h
      obtain rfl := Option.some.inj h
      simp
    · rintro ⟨-, -, rfl⟩
      rfl
  | e :: rest, lo, cs => by
    rw [matchComps_cons, List.forall₂_cons_right_iff]
    constructor
    · rintro ⟨i, tail, hi, ⟨hlo, htd, hta⟩, htail, rfl⟩
      obtain ⟨hp, hge, hall⟩ := (matchComps_iff hn).1 htail
      refine ⟨List.pairwise_cons.2 ⟨hge, hp⟩, ?_, i, tail, ⟨(findIdx?_id hn).1 hi, htd, hta⟩, hall, rfl⟩
      rintro c hc
      rcases List.mem_cons.1 hc with rfl | hc
      · exact hlo
      · have := hge c hc
        omega
    · rintro ⟨hp, hge, i, tail, ⟨hid, htd, hta⟩, hall, rfl⟩
      obtain ⟨hlt, hp⟩ := List.pairwise_cons.1 hp
      exact ⟨i, tail, (findIdx?_id hn).2 hid, ⟨hge i List.mem_cons_self, htd, hta⟩,
        (matchComps_iff hn).2 ⟨hp, hlt, hall⟩, rfl⟩

theorem getElem?_ids {f : Frame} {c : Nat} {b : Byte} : f.ids[c]? = some b ↔ c < f.nf.toNat ∧ (f.compAt c).id = b := by
  simp [Frame.ids, List.getElem?_eq_some_iff]

/-- The frame components `cs` are those the scan header at BP selects (R219). -/
def State.scanSelects (s : State) (cs : List Nat) : Prop :=
  cs.length = s.scanNs ∧ cs.Pairwise (· < ·) ∧ ∀ j c, cs[j]? = some c →
    c < s.fr.nf.toNat ∧ (s.fr.compAt c).id = s.inByte (s.rd.bp + 3 + 2 * j) ∧
    (s.inByte (s.rd.bp + 4 + 2 * j)).toNat / 16 ≤ 3 ∧ (s.inByte (s.rd.bp + 4 + 2 * j)).toNat % 16 ≤ 3

theorem selects_scanComp {f : Frame} {s : State} {c j : Nat} : Selects f.ids c (s.scanComp (s.rd.bp + 3) j) ↔
    c < f.nf.toNat ∧ (f.compAt c).id = s.inByte (s.rd.bp + 3 + 2 * j) ∧
    (s.inByte (s.rd.bp + 4 + 2 * j)).toNat / 16 ≤ 3 ∧ (s.inByte (s.rd.bp + 4 + 2 * j)).toNat % 16 ≤ 3 := by
  rw [Selects, getElem?_ids, and_assoc]
  rfl

theorem matchComps_scanHeader {s : State} (hn : s.fr.ids.Nodup) (cs : List Nat) :
    matchComps s.fr.ids 0 s.scanHeader.comps = some cs ↔ s.scanSelects cs := by
  have hlen : s.scanHeader.comps.length = s.scanNs := by simp [State.scanHeader]
  have hget (j : Nat) (h : j < s.scanHeader.comps.length) : s.scanHeader.comps.get ⟨j, h⟩ = s.scanComp (s.rd.bp + 3) j := by
    simp [State.scanHeader]
  simp only [matchComps_iff hn, List.forall₂_iff_get, hget, selects_scanComp, List.get_eq_getElem]
  constructor
  · rintro ⟨hlt, -, hcs, hall⟩
    refine ⟨hcs.trans hlen, hlt, fun j c hj => ?_⟩
    obtain ⟨hjlt, rfl⟩ := List.getElem?_eq_some_iff.1 hj
    exact hall j hjlt (hcs ▸ hjlt)
  · rintro ⟨hcs, hlt, hall⟩
    exact ⟨hlt, fun _ _ => Nat.zero_le _, hcs.trans hlen.symm, fun j hj _ => hall j _ (List.getElem?_eq_getElem hj)⟩

/-! ### The table selectors (R219) -/

theorem compAt_vset {f : Frame} {c : Nat} {k : Comp} (hc : c < 4) : Frame.compAt { f with comp := vset f.comp c k } c = k := by
  simp [Frame.compAt, vget, vset, hc]

theorem compAt_vset_ne {f : Frame} {c d : Nat} {k : Comp} (h : d ≠ c) :
    Frame.compAt { f with comp := vset f.comp c k } d = f.compAt d := by
  simp [Frame.compAt, vget, vset, h.symm]

theorem selectTables_comp : ∀ (l : List (Nat × Byte × Nat × Nat)) (f : Frame),
    f.selectTables l = { f with comp := (f.selectTables l).comp }
  | [], _ => rfl
  | (c, _, td, ta) :: l, f => by
    rw [Frame.selectTables, selectTables_comp l]

theorem selectTables_other {d : Nat} : ∀ {l : List (Nat × Byte × Nat × Nat)} (f : Frame), d ∉ l.map (·.1) →
    (f.selectTables l).compAt d = f.compAt d
  | [], _, _ => rfl
  | (c, _, td, ta) :: l, f, h => by
    simp only [List.map_cons, List.mem_cons, not_or] at h
    rw [Frame.selectTables, selectTables_other _ h.2, compAt_vset_ne h.1]

theorem selectTables_at {c : Nat} {b : Byte} {td ta : Nat} (hc : c < 4) : ∀ {l : List (Nat × Byte × Nat × Nat)} (f : Frame),
    (l.map (·.1)).Nodup → (c, b, td, ta) ∈ l →
    (f.selectTables l).compAt c = { f.compAt c with td := BitVec.ofNat 2 td, ta := BitVec.ofNat 2 ta }
  | (d, b', td', ta') :: l, f, hn, hmem => by
    obtain ⟨hd, hn⟩ := List.nodup_cons.1 hn
    rw [Frame.selectTables]
    rcases List.mem_cons.1 hmem with heq | hmem
    · obtain ⟨rfl, rfl, rfl, rfl⟩ : d = c ∧ b' = b ∧ td' = td ∧ ta' = ta := by simpa [eq_comm] using heq
      rw [selectTables_other _ hd, compAt_vset hc]
    · have hne : c ≠ d := fun h => hd (h ▸ List.mem_map_of_mem (f := (·.1)) hmem)
      rw [selectTables_at hc _ hn hmem, compAt_vset_ne hne]

/-! ### The header parsed -/

/-- The registers a scan header leaves for the components it selects (R219). -/
def State.withScan (s : State) (h : ScanHeader) (cs : List Nat) : State :=
  { s with
    fr := s.fr.selectTables (cs.zip h.comps)
    sc := { s.sc with
      ns := BitVec.ofNat 3 cs.length
      sc := Vector.ofFn fun j => BitVec.ofNat 2 (lget cs j.val 0)
      ss := BitVec.ofNat 6 h.ss, se := BitVec.ofNat 6 h.se, ah := BitVec.ofNat 4 h.ah, al := BitVec.ofNat 4 h.al } }

/-- The unit of the components fits (R219). -/
def State.unitFits (s : State) (cs : List Nat) : Prop := 1 < s.scanNs → (cs.map fun c => s.fr.hOf c * s.fr.vOf c).sum ≤ 10

section
variable {s : State} {lx : Nat} (hseg : s.segmentAt lx)
include hseg

theorem parseScanHeader_short (hlen : ¬ s.scanLengthOk lx) : parseScanHeader s = .error (.raise .formatError s) := by
  simp [parseScanHeader, readLength_ok hseg, readScanHeader, readNs_bad hseg hlen]

theorem parseScanHeader_band (hlen : s.scanLengthOk lx) (hband : 63 < s.scanHeader.ss ∨ 63 < s.scanHeader.se) :
    parseScanHeader s = .error (.raise .formatError s) := by
  have hbad : ¬ (s.scanHeader.ss ≤ 63 ∧ s.scanHeader.se ≤ 63) := by omega
  simp [parseScanHeader, readLength_ok hseg, readScanHeader_ok hseg hlen, hbad]

variable (hlen : s.scanLengthOk lx) (hss : s.scanHeader.ss ≤ 63) (hse : s.scanHeader.se ≤ 63) (hn : s.fr.ids.Nodup)
include hlen hss hse hn

theorem parseScanHeader_ok {cs : List Nat} (hsel : s.scanSelects cs) (hfit : s.unitFits cs) :
    parseScanHeader s = .ok ((), (s.withScan s.scanHeader cs).past lx) := by
  have hunit : (decide (cs.length ≤ 1) || decide ((cs.map fun c => s.fr.hOf c * s.fr.vOf c).sum ≤ 10)) = true := by
    rw [Bool.or_eq_true, decide_eq_true_eq, decide_eq_true_eq, hsel.1]
    by_cases h1 : s.scanNs ≤ 1
    · exact .inl h1
    · exact .inr (hfit (by omega))
  simp only [parseScanHeader, act_bind, readLength_ok hseg, readScanHeader_ok hseg hlen, act_require, hss, hse, decide_true,
    Bool.and_self, if_true, act_get, act_orFormatError, (matchComps_scanHeader hn cs).2 hsel, hunit, act_update]
  exact skipSegment_ok lx _

theorem parseScanHeader_unselected (hnone : ¬ ∃ cs, s.scanSelects cs ∧ s.unitFits cs) :
    parseScanHeader s = .error (.raise .formatError s) := by
  cases hcs : matchComps s.fr.ids 0 s.scanHeader.comps with
  | none => simp [parseScanHeader, readLength_ok hseg, readScanHeader_ok hseg hlen, hss, hse, hcs]
  | some cs =>
    have hsel := (matchComps_scanHeader hn cs).1 hcs
    have hunit : ¬ (cs.length ≤ 1 ∨ (cs.map fun c => s.fr.hOf c * s.fr.vOf c).sum ≤ 10) := by
      intro h
      refine hnone ⟨cs, hsel, fun h1 => h.resolve_left ?_⟩
      rw [hsel.1]
      omega
    simp only [parseScanHeader, act_bind, readLength_ok hseg, readScanHeader_ok hseg hlen, act_require, hss, hse, decide_true,
      Bool.and_self, if_true, act_get, act_orFormatError, hcs, Bool.or_eq_true, decide_eq_true_eq, if_neg hunit]

end

/-- What a scan header leaves in the scan registers (R40). -/
theorem withScan_registers {s : State} {cs : List Nat} (hsel : s.scanSelects cs) (hnf : s.fr.nf.toNat ≤ 4) (hns : s.scanNs ≤ 4)
    (hss : s.scanHeader.ss ≤ 63) (hse : s.scanHeader.se ≤ 63) :
    let t := (s.withScan s.scanHeader cs).sc
    t.ns.toNat = s.scanNs ∧ t.comps = cs ∧ t.ss.toNat = s.scanHeader.ss ∧ t.se.toNat = s.scanHeader.se ∧
      t.ah.toNat = s.scanHeader.ah ∧ t.al.toNat = s.scanHeader.al := by
  obtain ⟨hlen, -, hcs⟩ := hsel
  have hnibble (off : Nat) : (s.inByte off).toNat < 256 := (s.inByte off).isLt
  have hNs : (BitVec.ofNat 3 cs.length).toNat = cs.length := toNat_ofNat_of_lt (by omega)
  refine ⟨hNs.trans hlen, List.ext_getElem (by simp [Scan.comps, State.withScan, hNs]) fun j h1 h2 => ?_, toNat_ofNat_of_lt (by omega),
    toNat_ofNat_of_lt (by omega), toNat_ofNat_of_lt ?_, toNat_ofNat_of_lt ?_⟩
  · have hj4 : j < 4 := by omega
    have hlt := (hcs j cs[j] (List.getElem?_eq_getElem h2)).1
    simp only [Scan.comps, State.withScan, List.getElem_map, List.getElem_range, Scan.compOf, vget_ofFn _ _ hj4, lget,
      List.getElem?_eq_getElem h2, Option.getD_some]
    exact toNat_ofNat_of_lt (by omega)
  · exact Nat.div_lt_of_lt_mul (hnibble _)
  · exact Nat.mod_lt _ (by decide)

/-- What a scan header leaves in the component fields (R39). -/
theorem withScan_comp {s : State} {cs : List Nat} (hsel : s.scanSelects cs) (hnf : s.fr.nf.toNat ≤ 4) :
    let f := (s.withScan s.scanHeader cs).fr
    f = { s.fr with comp := f.comp } ∧
    (∀ j c, cs[j]? = some c → f.compAt c = { s.fr.compAt c with td := (f.compAt c).td, ta := (f.compAt c).ta } ∧
      (f.compAt c).td.toNat = (s.inByte (s.rd.bp + 4 + 2 * j)).toNat / 16 ∧
      (f.compAt c).ta.toNat = (s.inByte (s.rd.bp + 4 + 2 * j)).toNat % 16) ∧
    ∀ c, c ∉ cs → f.compAt c = s.fr.compAt c := by
  intro f
  obtain ⟨hlen, hlt, hcs⟩ := hsel
  have hcomps : s.scanHeader.comps.length = s.scanNs := by simp [State.scanHeader]
  have hfst : (cs.zip s.scanHeader.comps).map (·.1) = cs := List.map_fst_zip (by omega)
  refine ⟨selectTables_comp _ _, fun j c hj => ?_, fun c hc => selectTables_other _ (by rwa [hfst])⟩
  obtain ⟨hc, -, htd, hta⟩ := hcs j c hj
  obtain ⟨hjlt, hget⟩ := List.getElem?_eq_some_iff.1 hj
  have hmem : (c, s.scanComp (s.rd.bp + 3) j) ∈ cs.zip s.scanHeader.comps := by
    refine List.mem_iff_getElem.2 ⟨j, by rw [List.length_zip]; omega, ?_⟩
    rw [List.getElem_zip, hget]
    simp [State.scanHeader]
  have hat : f.compAt c = { s.fr.compAt c with
      td := BitVec.ofNat 2 ((s.inByte (s.rd.bp + 4 + 2 * j)).toNat / 16)
      ta := BitVec.ofNat 2 ((s.inByte (s.rd.bp + 4 + 2 * j)).toNat % 16) } :=
    selectTables_at (by omega) s.fr (by rw [hfst]; exact hlt.imp fun h => h.ne) hmem
  rw [hat]
  exact ⟨rfl, toNat_ofNat_of_lt (Nat.lt_succ_of_le htd), toNat_ofNat_of_lt (Nat.lt_succ_of_le hta)⟩

/-! ### The scan parameters (R255) -/

theorem scanParamsOk_iff (n : BitVec 4) (p ns ss se ah al : Nat) : scanParamsOk n p ns ss se ah al = true ↔
    (n.toNat % 4 ≤ 1 ∧ ss = 0 ∧ se = 63 ∧ ah = 0 ∧ al = 0) ∨
    (n.toNat % 4 = 2 ∧ ss ≤ se ∧ se ≤ 63 ∧ (ss = 0 → se = 0) ∧ (0 < ss → ns = 1) ∧ (ah = 0 ∨ al + 1 = ah) ∧ al ≤ 13) ∨
    (n.toNat % 4 = 3 ∧ (n.getLsbD 2 = false → 1 ≤ ss ∧ ss ≤ 7) ∧ (n.getLsbD 2 = true → ss = 0) ∧ se = 0 ∧ ah = 0 ∧ al < p) := by
  have hcases : n.toNat % 4 ≤ 1 ∨ n.toNat % 4 = 2 ∨ n.toNat % 4 = 3 := by omega
  unfold scanParamsOk sofProcess sofDifferential
  rcases hcases with h | h | h
  · have h2 : ¬ n.toNat % 4 = 2 := by omega
    have h3 : ¬ n.toNat % 4 = 3 := by omega
    simp [h, h2, h3]
  · simp [h, and_assoc]
    omega
  · cases hd : n.getLsbD 2 <;> simp [h, and_assoc]

/-- Settles O29: the header by its checks in order; the parameters by process. -/
theorem scanParameters : Obligations.ScanParameters := by
  refine ⟨fun s lx hseg hnf hn => ?_, scanParamsOk_iff, fun s u hreplay hparse hbad => ?_⟩
  · intro bp ns tables ss se a selects lengthOk fits
    refine ⟨fun hbad => ?_, fun cs hlen hss hse hsel hfit => ?_⟩
    · by_cases hlen : s.scanLengthOk lx
      · by_cases hband : s.scanHeader.ss ≤ 63 ∧ s.scanHeader.se ≤ 63
        · refine parseScanHeader_unselected hseg hlen hband.1 hband.2 hn ?_
          rcases hbad with h | h | h | h
          · exact absurd hlen h
          · exact absurd hband.1 (Nat.not_le.2 h)
          · exact absurd hband.2 (Nat.not_le.2 h)
          · exact h
        · exact parseScanHeader_band hseg hlen (by omega)
      · exact parseScanHeader_short hseg hlen
    · obtain ⟨rns, rcomps, rss, rse, rah, ral⟩ := withScan_registers hsel hnf hlen.2.2.2 hss hse
      obtain ⟨hfr, hcomp, hother⟩ := withScan_comp hsel hnf
      exact ⟨_, parseScanHeader_ok hseg hlen hss hse hn hsel hfit, rfl, rfl, rns, rcomps, rss, rse, rah, ral, hfr, hcomp, hother⟩
  · refine (runAct_congr (byPhase_replaying hreplay _ _)).trans (runAct_raise ?_)
    simp only [parseSos, act_bind, hparse, act_get, act_require, hbad, Bool.false_eq_true, if_false]

end Sys2Proof.Machine

namespace Sys2Proof.Machine

/-! ### Canonical codes (R152, R290) -/

/-- Codes of one length, one after another from `code` on. -/
def codeRun (len : Nat) : Nat → List Byte → List Code
  | _, [] => []
  | code, v :: vals => ⟨code, len, v⟩ :: codeRun len (code + 1) vals

theorem map_sym_codeRun (len : Nat) : ∀ (code : Nat) (vals : List Byte), (codeRun len code vals).map (·.sym) = vals
  | _, [] => rfl
  | code, v :: vals => by rw [codeRun, List.map_cons, map_sym_codeRun len (code + 1) vals]

theorem mem_codeRun {len : Nat} {c : Code} : ∀ {code : Nat} {vals : List Byte}, c ∈ codeRun len code vals →
    c.len = len ∧ c.code < code + vals.length
  | code, v :: vals, h => by
    rw [codeRun, List.mem_cons] at h
    rw [List.length_cons]
    rcases h with rfl | h
    · exact ⟨rfl, by dsimp only; omega⟩
    · have := mem_codeRun h
      omega

/-- Where the codes of a length are assigned there are symbols for them, and they fit. -/
theorem assignLength_some {len : Nat} : ∀ {n code : Nat} {vals : List Byte} {r : List Code × Nat × List Byte},
    assignLength len n code vals = some r →
    n ≤ vals.length ∧ (n = 0 ∨ code + n ≤ 2 ^ len) ∧ r = (codeRun len code (vals.take n), code + n, vals.drop n)
  | 0, code, vals, r, h => by
    cases h
    exact ⟨Nat.zero_le _, .inl rfl, rfl⟩
  | n + 1, code, [], r, h => by cases h
  | n + 1, code, v :: vals, r, h => by
    rw [assignLength] at h
    split at h
    · cases h
    · next hfull =>
      obtain ⟨r', hr', rfl⟩ := Option.map_eq_some_iff.1 h
      obtain ⟨hn, hfit, rfl⟩ := assignLength_some hr'
      refine ⟨Nat.succ_le_succ hn, .inr (by omega), ?_⟩
      rw [Nat.add_assoc, Nat.add_comm 1 n]
      rfl

/-- The codes of a list of counts: those of the first length, then those of the longer ones, from twice the next code on. -/
theorem assignCodes_cons {len n code : Nat} {counts : List Nat} {vals : List Byte} {codes : List Code}
    (h : assignCodes len (n :: counts) code vals = some codes) :
    n ≤ vals.length ∧ (n = 0 ∨ code + n ≤ 2 ^ len) ∧ ∃ rest,
      assignCodes (len + 1) counts ((code + n) * 2) (vals.drop n) = some rest ∧ codes = codeRun len code (vals.take n) ++ rest := by
  rw [assignCodes] at h
  split at h
  · cases h
  · next first code' vals' hlen =>
    obtain ⟨hn, hfit, hr⟩ := assignLength_some hlen
    obtain ⟨rfl, rfl, rfl⟩ : first = _ ∧ code' = _ ∧ vals' = _ := by simpa using hr
    obtain ⟨rest, hrest, rfl⟩ := Option.map_eq_some_iff.1 h
    exact ⟨hn, hfit, rest, hrest, rfl⟩

theorem assignCodes_syms : ∀ {counts : List Nat} {len code : Nat} {vals : List Byte} {codes : List Code},
    assignCodes len counts code vals = some codes → counts.sum ≤ vals.length ∧ codes.map (·.sym) = vals.take counts.sum
  | [], _, _, vals, codes, h => by
    cases h
    exact ⟨Nat.zero_le _, rfl⟩
  | n :: counts, len, code, vals, codes, h => by
    obtain ⟨hn, -, rest, hrest, rfl⟩ := assignCodes_cons h
    obtain ⟨hsum, hsyms⟩ := assignCodes_syms hrest
    rw [List.length_drop] at hsum
    refine ⟨by rw [List.sum_cons]; omega, ?_⟩
    rw [List.map_append, map_sym_codeRun, hsyms, List.sum_cons, List.take_add]

theorem assignCodes_fits {c : Code} : ∀ {counts : List Nat} {len code : Nat} {vals : List Byte} {codes : List Code},
    assignCodes len counts code vals = some codes → c ∈ codes → len ≤ c.len ∧ c.len < len + counts.length ∧ c.code < 2 ^ c.len
  | [], _, _, vals, codes, h, hc => by
    cases h
    cases hc
  | n :: counts, len, code, vals, codes, h, hc => by
    obtain ⟨hn, hfit, rest, hrest, rfl⟩ := assignCodes_cons h
    rw [List.length_cons]
    rcases List.mem_append.1 hc with hc | hc
    · obtain ⟨rfl, hlt⟩ := mem_codeRun hc
      rw [List.length_take, Nat.min_eq_left hn] at hlt
      have hpos : n ≠ 0 := by
        rintro rfl
        cases hc
      exact ⟨le_refl _, by omega, by omega⟩
    · obtain ⟨hle, hlt, hcode⟩ := assignCodes_fits hrest hc
      exact ⟨by omega, by omega, hcode⟩

/-- As many codes of each length as the list says. -/
theorem assignCodes_counts : ∀ {counts : List Nat} {len code : Nat} {vals : List Byte} {codes : List Code},
    assignCodes len counts code vals = some codes → ∀ k < counts.length,
      (codes.filter fun c => c.len == len + k).length = lget counts k 0
  | n :: counts, len, code, vals, codes, h, k, hk => by
    obtain ⟨hn, -, rest, hrest, rfl⟩ := assignCodes_cons h
    have hlens : ∀ c ∈ codeRun len code (vals.take n), c.len = len := fun c hc => (mem_codeRun hc).1
    rw [List.filter_append, List.length_append]
    cases k with
    | zero =>
      have hrun : ((codeRun len code (vals.take n)).filter fun c => c.len == len + 0).length = n := by
        rw [List.filter_eq_self.2 fun c hc => by simp [hlens c hc], ← List.length_map (·.sym), map_sym_codeRun, List.length_take,
          Nat.min_eq_left hn]
      have hnone : (rest.filter fun c => c.len == len + 0) = [] :=
        List.filter_eq_nil_iff.2 fun c hc => by
          have := (assignCodes_fits hrest hc).1
          simp
          omega
      rw [hrun, hnone]
      rfl
    | succ k =>
      have hnone : ((codeRun len code (vals.take n)).filter fun c => c.len == len + (k + 1)) = [] :=
        List.filter_eq_nil_iff.2 fun c hc => by simp [hlens c hc]
      have hrec := assignCodes_counts hrest k (Nat.lt_of_succ_lt_succ hk)
      rw [hnone, List.length_nil, Nat.zero_add, show len + (k + 1) = len + 1 + k by omega, hrec]
      rfl

/-! ### One code after the other (R290) -/

/-- The codes go on from `code` at length `len`: the first one is that code, shifted left where it is longer, and each next one the
code before it plus 1, shifted so. -/
def Follows : Nat → Nat → List Code → Prop
  | _, _, [] => True
  | len, code, c :: cs => len ≤ c.len ∧ c.code = code * 2 ^ (c.len - len) ∧ Follows c.len (c.code + 1) cs

theorem follows_longer {len code : Nat} : ∀ {cs : List Code}, Follows (len + 1) (code * 2) cs → Follows len code cs
  | [], _ => trivial
  | c :: cs, ⟨hlen, hcode, hrest⟩ => by
    refine ⟨by omega, ?_, hrest⟩
    rw [hcode, show c.len - len = c.len - (len + 1) + 1 by omega, pow_succ, Nat.mul_assoc, Nat.mul_comm 2]

theorem follows_codeRun {len : Nat} {rest : List Code} : ∀ {code : Nat} {vals : List Byte},
    Follows len (code + vals.length) rest → Follows len code (codeRun len code vals ++ rest)
  | _, [], h => h
  | code, v :: vals, h => by
    refine ⟨le_refl len, by simp, follows_codeRun ?_⟩
    rwa [Nat.add_right_comm, Nat.add_assoc]

theorem assignCodes_follows : ∀ {counts : List Nat} {len code : Nat} {vals : List Byte} {codes : List Code},
    assignCodes len counts code vals = some codes → Follows len code codes
  | [], _, _, vals, codes, h => by
    cases h
    trivial
  | n :: counts, len, code, vals, codes, h => by
    obtain ⟨hn, -, rest, hrest, rfl⟩ := assignCodes_cons h
    refine follows_codeRun (follows_longer ?_)
    rw [List.length_take, Nat.min_eq_left hn]
    exact assignCodes_follows hrest

/-- The code after another: it is no shorter, and the other one plus 1, shifted left. -/
def NextCode (a b : Code) : Prop := a.len ≤ b.len ∧ b.code = (a.code + 1) * 2 ^ (b.len - a.len)

theorem isChain_of_follows : ∀ {cs : List Code} {len code : Nat}, Follows len code cs → cs.IsChain NextCode
  | [], _, _, _ => .nil
  | [_], _, _, _ => .singleton _
  | _ :: _ :: _, _, _, ⟨_, _, h⟩ => List.isChain_cons_cons.2 ⟨⟨h.1, h.2.1⟩, isChain_of_follows h⟩

/-- A later code lies past every code that begins with an earlier one. -/
def Past (a b : Code) : Prop := a.len ≤ b.len ∧ (a.code + 1) * 2 ^ (b.len - a.len) ≤ b.code

theorem Past.trans {a b c : Code} (hab : Past a b) (hbc : Past b c) : Past a c := by
  obtain ⟨hlen, hcode⟩ := hab
  obtain ⟨hlen', hcode'⟩ := hbc
  refine ⟨hlen.trans hlen', ?_⟩
  calc (a.code + 1) * 2 ^ (c.len - a.len) = (a.code + 1) * 2 ^ (b.len - a.len) * 2 ^ (c.len - b.len) := by
        rw [Nat.mul_assoc, ← pow_add]
        congr 2
        omega
    _ ≤ (b.code + 1) * 2 ^ (c.len - b.len) := Nat.mul_le_mul_right _ (hcode.trans (Nat.le_succ _))
    _ ≤ c.code := hcode'

/-- No codeword begins a later one. -/
theorem Past.not_begins {a b : Code} (h : Past a b) : b.code / 2 ^ (b.len - a.len) ≠ a.code := by
  have : a.code + 1 ≤ b.code / 2 ^ (b.len - a.len) := (Nat.le_div_iff_mul_le (Nat.two_pow_pos _)).2 h.2
  omega

theorem pairwise_past {cs : List Code} (h : cs.IsChain NextCode) : cs.Pairwise Past := by
  have htrans : Trans Past Past Past := ⟨Past.trans⟩
  exact List.isChain_iff_pairwise.1 (h.imp fun _ _ hab => ⟨hab.1, hab.2.ge⟩)

/-- Settles O36: the symbols, lengths and counts by induction on the list of counts; the order, and that no code begins a later one,
from each code following the one before it. -/
theorem buildTriePrefixFree : Obligations.BuildTriePrefixFree := by
  intro bits vals codes h
  obtain ⟨hsum, hsyms⟩ := assignCodes_syms h
  have hfollows := assignCodes_follows h
  have hchain := isChain_of_follows hfollows
  refine ⟨hsyms, ?_, fun c hc => ?_, fun len h1 hlen => ?_, fun c hc => ?_, fun k c d hc hd => ?_,
    (pairwise_past hchain).imp fun hab => ⟨hab.1, hab.not_begins⟩⟩
  · rw [← List.length_map (·.sym), hsyms, List.length_take, Nat.min_eq_left hsum]
  · obtain ⟨hle, hlt, hcode⟩ := assignCodes_fits h hc
    exact ⟨hle, by omega, hcode⟩
  · have hcount := assignCodes_counts h (len - 1) (by omega)
    rwa [show 1 + (len - 1) = len by omega] at hcount
  · obtain ⟨rest, rfl⟩ := List.head?_eq_some_iff.1 hc
    rw [hfollows.2.1, Nat.zero_mul]
  · obtain ⟨hk, rfl⟩ := List.getElem?_eq_some_iff.1 hc
    obtain ⟨hk', rfl⟩ := List.getElem?_eq_some_iff.1 hd
    exact (List.isChain_iff_getElem.1 hchain k hk').2

end Sys2Proof.Machine

namespace Sys2Proof.Machine

/-! ### The step while units are decoded (R158, R264, R292, R582) -/

theorem fetch_unit {s : State} (hp : s.sq.phase = .unit) : fetch s = fetchUnit s := by simp [fetch, hp]

theorem act_theBlock {s : State} {b : OpenBlock} (h : s.sq.block = some b) : theBlock s = .ok (b, s) := by
  simp [theBlock, h]

theorem fetchUnit_symbol {s t : State} {b : OpenBlock} {sym : Byte} {i : Instr} (hb : s.sq.block = some b)
    (hsym : decodeHuff (s.symbolTable b) s = .ok (sym, t)) (hi : decodeInstr b.symbolSpace [sym] = some i) :
    fetchUnit s = .ok (some i, t) := by
  have hsymbol : fetchSymbol s = .ok (i, t) := by
    simp only [fetchSymbol, act_bind, act_theBlock hb, act_get, hsym, act_orFormatError, hi]
  simp [fetchUnit, hb, hsymbol]

theorem fetchUnit_routine {s : State} {i : Instr} (hb : s.sq.block = none) (hi : decodeInstr .sel [s.sel] = some i) :
    fetchUnit s = .ok (some i, s) := by
  simp [fetchUnit, hb, hi]

/-- The first register is CTRL (R32). -/
theorem regOffset_base (s : State) : s.regOffset s.params.lpjBase = some 0 := by
  simp [State.regOffset]

/-- A write of START to CTRL is the command that it encodes (R582). -/
theorem step_command {s : State} {v : Word} {rest : List HostAct} {i : Instr} (hs : s.script = .write s.params.lpjBase 4 v :: rest)
    (hi : decodeInstr .ctrl (bytesLE 4 v.toNat) = some i) : step s = exec i { s with script := rest } := by
  have hstart : s.startWord (.write s.params.lpjBase 4 v) = some i := by simp [State.startWord, regOffset_base, hi]
  simp only [step, stepOf, hs, hstart]

/-- Settles O7: the symbol, the routine, the command. -/
theorem stepRunsEntropyCodeAndCommands : Obligations.StepRunsEntropyCodeAndCommands := by
  refine ⟨fun s hs hp hu => ⟨fun t b sym i hb hsym hi => step_fetched hs hu ?_, fun i hb hi => step_fetched hs hu ?_⟩,
    fun s v rest i hs hi => step_command hs hi⟩ <;> rw [fetch_unit hp]
  · exact fetchUnit_symbol hb hsym hi
  · exact fetchUnit_routine hb hi

/-! ### Rules of the state that symbols work on -/

/-- Extra bits change the reader and the free-value counter. -/
theorem receive_reads {n v : Nat} {s t : State} (h : receive n s = .ok (v, t)) : ∃ rd d, t = { s with rd := rd, draws := d } :=
  ⟨_, _, (reads_receive n s).1 v t h⟩

theorem act_closeBlock (s : State) : closeBlock s = .ok ((), { s with sq := { s.sq with block := none } }) := rfl

theorem act_setEobrun (n : Nat) (s : State) : setEobrun n s = .ok ((), { s with pr := { s.pr with eobrun := n } }) := rfl

/-- The block in progress moved on, or complete past the band's end. -/
def OpenBlock.movedTo (b : OpenBlock) (stop k : Nat) : Option OpenBlock := if k ≤ stop then some { b with k := k } else none

theorem act_moveTo (b : OpenBlock) (k : Nat) (s : State) :
    moveTo b k s = .ok ((), { s with sq := { s.sq with block := b.movedTo (s.bandEnd b) k } }) := by
  simp only [moveTo, act_bind, act_get, act_ite, OpenBlock.movedTo]
  split <;> rfl

theorem act_checked32 {v : Int} (h : inInt32 v = true) (s : State) : checked32 v s = .ok (v, s) := by
  simp [checked32, h]

theorem act_getBlock {s : State} {a : Address} {blk : Block} (h : s.block? a = some blk) : getBlock a s = .ok (blk, s) := by
  simp [getBlock, h]

theorem act_getCoeff {s : State} {a : Address} {blk : Block} (h : s.block? a = some blk) (k : Nat) :
    getCoeff a k s = .ok (vget blk k 0, s) := by
  simp [getCoeff, act_getBlock h]

theorem act_setCoeff {s : State} {a : Address} {blk : Block} (h : s.block? a = some blk) (k : Nat) (v : Int) :
    setCoeff a k v s = .ok ((), s.withBlock a (vset blk k v)) := by
  rw [setCoeff, act_bind, act_getBlock h]
  rfl

theorem act_storeShifted {s : State} {a : Address} {blk : Block} (h : s.block? a = some blk) (k : Nat) {v : Int}
    (hv : inInt32 (v * 2 ^ s.sc.al.toNat) = true) :
    storeShifted a k v s = .ok ((), s.withBlock a (vset blk k (v * 2 ^ s.sc.al.toNat))) := by
  simp only [storeShifted, act_bind, act_get, act_checked32 hv, act_setCoeff h]

/-! ### DC symbols (R301) -/

/-- The DC value of a difference: in a differential frame the difference itself. -/
def State.dcValue (s : State) (c : Nat) (diff : Int) : Int := if s.fr.ft.getLsbD 2 then diff else vget s.pr.pred c 0 + diff

/-- PRED of the component after a DC value; a differential frame has none. -/
def State.withDcValue (s : State) (c : Nat) (val : Int) : State :=
  { s with pr := if s.fr.ft.getLsbD 2 then s.pr else { s.pr with pred := vset s.pr.pred c val } }

theorem act_predictDc {s : State} {c : Nat} {diff : Int} (h : inInt32 (s.dcValue c diff) = true) :
    predictDc c diff s = .ok (s.dcValue c diff, s.withDcValue c (s.dcValue c diff)) := by
  unfold State.dcValue State.withDcValue at *
  by_cases hd : s.fr.ft.getLsbD 2 = true
  · have hdiff : s.fr.isDifferential = true := hd
    rw [if_pos hd] at h
    simp only [predictDc, act_bind, act_get, hdiff, if_true, act_checked32 h, if_pos hd]
  · have hdiff : ¬ s.fr.isDifferential = true := hd
    rw [if_neg hd] at h
    simp only [predictDc, act_bind, act_get, if_neg hdiff, act_checked32 h, act_update, act_pure, if_neg hd]

/-- Settles O38: the extra bits, the prediction, the shifted value. -/
theorem dcCategorySymbol : Obligations.DcCategorySymbol := by
  intro t s u b blk v hb hrecv hblk diff val hval hshift
  obtain ⟨rd, d, hu⟩ := receive_reads hrecv
  have hpredict : predictDc b.addr.c (extend v t.toNat) u = .ok (val, u.withDcValue b.addr.c val) := by
    subst hu
    exact act_predictDc hval
  have hstore : storeShifted b.addr 0 val (u.withDcValue b.addr.c val) =
      .ok ((), (u.withDcValue b.addr.c val).withBlock b.addr (vset blk 0 (val * 2 ^ s.sc.al.toNat))) := by
    subst hu
    exact act_storeShifted (s := State.withDcValue { s with rd := rd, draws := d } b.addr.c val) hblk 0 hshift
  refine runAct_ok ?_
  simp only [dcCategoryAct, act_bind, act_theBlock hb, hrecv, hpredict, hstore]
  subst hu
  by_cases hmode : b.mode = .seq
  · rw [if_pos hmode, if_pos hmode]
    rfl
  · rw [if_neg hmode, if_neg hmode]
    rfl

/-! ### AC symbols of a sequential block and of a first scan (R302, R314) -/

theorem endOfBand_seq {s : State} {b : OpenBlock} (hb : s.sq.block = some b) (hm : b.mode = .seq) (r : Nat) : endOfBandAct r s =
    if r = 0 then .ok ((), { s with sq := { s.sq with block := none } }) else .error (.raise .formatError s) := by
  simp only [endOfBandAct, act_bind, act_theBlock hb, if_pos hm, act_require, beq_iff_eq]
  by_cases hr : r = 0 <;> simp only [hr, if_true, if_false, act_closeBlock]

theorem endOfBand_first {s u : State} {b : OpenBlock} {r v : Nat} (hb : s.sq.block = some b) (hm : b.mode = .first)
    (hrecv : receive r s = .ok (v, u)) : endOfBandAct r s =
      .ok ((), { u with pr := { u.pr with eobrun := 2 ^ r + v - 1 }, sq := { u.sq with block := none } }) := by
  have hseq : ¬ b.mode = .seq := by rw [hm]; decide
  have hrefine : ¬ b.mode = .refine := by rw [hm]; decide
  simp only [endOfBandAct, act_bind, act_theBlock hb, if_neg hseq, hrecv, if_neg hrefine, act_setEobrun, act_closeBlock]

section
variable {s : State} {b : OpenBlock} (hb : s.sq.block = some b) (hm : ¬ b.mode = .refine)
include hb hm

theorem zrl_pass : zrlAct s = if b.k + 16 ≤ s.bandEnd b + 1 then
    .ok ((), { s with sq := { s.sq with block := b.movedTo (s.bandEnd b) (b.k + 16) } }) else .error (.raise .formatError s) := by
  simp only [zrlAct, act_bind, act_theBlock hb, act_get, if_neg hm, act_require, decide_eq_true_eq]
  by_cases hk : b.k + 16 ≤ s.bandEnd b + 1 <;> simp only [hk, if_true, if_false, act_moveTo]

theorem coeff_beyond {r : Nat} (sz : Nat) (h : s.bandEnd b < b.k + r) : coeffAct r sz s = .error (.raise .formatError s) := by
  have hbeyond : ¬ b.k + r ≤ s.bandEnd b := Nat.not_le.2 h
  simp only [coeffAct, act_bind, act_theBlock hb, act_get, if_neg hm, act_require, decide_eq_true_eq, if_neg hbeyond]

theorem coeff_pass {r sz v : Nat} {u : State} {blk : Block} (hk : b.k + r ≤ s.bandEnd b) (hrecv : receive sz s = .ok (v, u))
    (hblk : s.block? b.addr = some blk) :
    let val := if b.mode = .seq then extend v sz else extend v sz * 2 ^ s.sc.al.toNat
    inInt32 val = true → coeffAct r sz s = .ok ((), { (u.withBlock b.addr (vset blk (b.k + r) val)) with
      sq := { u.sq with block := b.movedTo (s.bandEnd b) (b.k + r + 1) } }) := by
  intro val hval
  obtain ⟨rd, d, hu⟩ := receive_reads hrecv
  have hblk' : u.block? b.addr = some blk := hu ▸ hblk
  have hmoved : moveTo b (b.k + r + 1) (u.withBlock b.addr (vset blk (b.k + r) val)) = .ok ((), { (u.withBlock b.addr (vset blk (b.k + r) val)) with
      sq := { u.sq with block := b.movedTo (s.bandEnd b) (b.k + r + 1) } }) := by
    subst hu
    exact act_moveTo b (b.k + r + 1) _
  have hstore : (if b.mode = .seq then setCoeff b.addr (b.k + r) (extend v sz) else storeShifted b.addr (b.k + r) (extend v sz)) u =
      .ok ((), u.withBlock b.addr (vset blk (b.k + r) val)) := by
    by_cases hseq : b.mode = .seq
    · obtain hval' : val = extend v sz := if_pos hseq
      rw [if_pos hseq, act_setCoeff hblk', hval']
    · obtain hval' : val = extend v sz * 2 ^ s.sc.al.toNat := if_neg hseq
      rw [if_neg hseq, hval']
      rw [hval'] at hval
      subst hu
      exact act_storeShifted hblk' _ hval
  simp only [coeffAct, act_bind, act_theBlock hb, act_get, if_neg hm, act_require, decide_eq_true_eq, if_pos hk, hrecv]
  by_cases hseq : b.mode = .seq
  · rw [if_pos hseq] at hstore ⊢
    simp only [act_bind, hstore, hmoved]
  · rw [if_neg hseq] at hstore ⊢
    simp only [act_bind, hstore, hmoved]

end

/-- Settles O39: the end-of-band symbols by mode, ZRL and a coefficient by their position. -/
theorem acSymbolsOfAFirstPass : Obligations.AcSymbolsOfAFirstPass := by
  intro s b hb hmode stop on
  have hm : ¬ b.mode = .refine := by rcases hmode with h | h <;> rw [h] <;> decide
  have hzrl := zrl_pass hb hm
  refine ⟨fun hseq => runAct_ok (endOfBand_seq hb hseq 0), fun hfirst => runAct_ok (endOfBand_first (r := 0) (v := 0) hb hfirst rfl),
    fun r hr hseq => runAct_raise ?_, fun r v u hfirst hrecv => runAct_ok (endOfBand_first hb hfirst hrecv),
    fun hk => runAct_ok (hzrl.trans (if_pos hk)), fun hk => runAct_raise (hzrl.trans (if_neg (Nat.not_le.2 hk))),
    fun r sz hk => runAct_raise (coeff_beyond hb hm sz.toNat hk),
    fun r sz v u blk hk hrecv hblk => ?_⟩
  · have hr0 : r.toNat ≠ 0 := by
      intro h0
      obtain rfl : r = 0 := BitVec.eq_of_toNat_eq h0
      cases hr
    rw [endOfBand_seq hb hseq, if_neg hr0]
  · intro k val hval
    exact runAct_ok (coeff_pass hb hm hk hrecv hblk hval)

end Sys2Proof.Machine

namespace Sys2Proof.Machine

/-! ### What reading bits does not look at -/

/-- A state whose sequencing, planes and predictors are changed. -/
def State.touched (s : State) (q : Seq → Seq) (pl : Vector (Option Plane) 4 → Vector (Option Plane) 4) (p : Pred → Pred) : State :=
  { s with sq := q s.sq, arena := { s.arena with planes := pl s.arena.planes }, pr := p s.pr }

/-- An answer with its state changed. -/
def answerAt {α : Type} (f : State → State) : Except Stop (α × State) → Except Stop (α × State)
  | .ok (a, t) => .ok (a, f t)
  | .error (.raise e t) => .error (.raise e (f t))
  | .error (.fault x) => .error (.fault x)

/-- The action does not look at what `f` changes, and leaves it so. -/
def Oblivious {α : Type} (f : State → State) (m : Act α) : Prop := ∀ s, m (f s) = answerAt f (m s)

section
variable {α β : Type} {f : State → State}

theorem oblivious_pure (a : α) : Oblivious f (pure a) := fun _ => rfl

theorem oblivious_raise (e : ErrKind) : Oblivious f (raise e : Act α) := fun _ => rfl

theorem oblivious_stop (x : Fault) : Oblivious f (stop x : Act α) := fun _ => rfl

theorem oblivious_update {g : State → State} (h : ∀ s, g (f s) = f (g s)) : Oblivious f (update g) := by
  intro s
  rw [act_update, act_update, h]
  rfl

theorem oblivious_ite {c : Prop} [Decidable c] {m n : Act α} (hm : Oblivious f m) (hn : Oblivious f n) :
    Oblivious f (if c then m else n) := by
  split
  · exact hm
  · exact hn

theorem oblivious_bind {m : Act α} {k : α → Act β} (hm : Oblivious f m) (hk : ∀ a, Oblivious f (k a)) : Oblivious f (m >>= k) := by
  intro s
  rw [act_bind, act_bind, hm s]
  rcases m s with (⟨e, t⟩ | x) | ⟨a, t⟩
  · rfl
  · rfl
  · exact hk a t

/-- An action that reads the state, but nothing that `f` changes. -/
theorem oblivious_read {k : State → Act β} (hf : ∀ s, k (f s) = k s) (hk : ∀ s, Oblivious f (k s)) : Oblivious f (get >>= k) := by
  intro s
  change k (f s) (f s) = answerAt f (k s s)
  rw [hf]
  exact hk s s

theorem oblivious_orUndefined (w : Unwritten) (o : Option α) : Oblivious f (orUndefined w o) := by
  cases o
  · exact oblivious_stop _
  · exact oblivious_pure _

theorem oblivious_orFormatError (o : Option α) : Oblivious f (orFormatError o) := by
  cases o
  · exact oblivious_raise _
  · exact oblivious_pure _

theorem Oblivious.ok {m : Act α} (h : Oblivious f m) {s t : State} {a : α} (hm : m s = .ok (a, t)) : m (f s) = .ok (a, f t) := by
  rw [h s, hm]
  rfl

end

section
variable {q : Seq → Seq} {pl : Vector (Option Plane) 4 → Vector (Option Plane) 4} {p : Pred → Pred}

theorem load_touched (s : State) (a : Nat) :
    (s.touched q pl p).load a = ((s.load a).1, (s.load a).2.touched q pl p) := by
  by_cases h : s.mem.unknown a = true
  · have h' : (s.touched q pl p).mem.unknown a = true := h
    simp only [State.load, if_pos h, if_pos h']
    rfl
  · have h' : ¬ (s.touched q pl p).mem.unknown a = true := h
    simp only [State.load, if_neg h, if_neg h']
    rfl

theorem engineLoad_touched (s : State) (a : Nat) :
    (s.touched q pl p).engineLoad a = ((s.engineLoad a).1, (s.engineLoad a).2.touched q pl p) := by
  by_cases h : s.arena.used ≠ 0 ∧ s.inArena a = true
  · have h' : (s.touched q pl p).arena.used ≠ 0 ∧ (s.touched q pl p).inArena a = true := h
    simp only [State.engineLoad, if_pos h, if_pos h']
    rfl
  · have h' : ¬ ((s.touched q pl p).arena.used ≠ 0 ∧ (s.touched q pl p).inArena a = true) := h
    simp only [State.engineLoad, if_neg h, if_neg h', load_touched]

theorem oblivious_loadByte (a : Nat) : Oblivious (·.touched q pl p) (loadByte a) := fun s =>
  congrArg Except.ok (engineLoad_touched s a)

theorem oblivious_memRead1 (off : Nat) : Oblivious (·.touched q pl p) (memRead1 off) :=
  oblivious_read (fun _ => rfl) fun _ => oblivious_ite (oblivious_raise _) (oblivious_loadByte _)

theorem oblivious_nextBit : Oblivious (·.touched q pl p) nextBit := by
  refine oblivious_read (fun _ => rfl) fun s => oblivious_ite (oblivious_ite (oblivious_raise _) ?_) ?_
  · exact oblivious_bind (oblivious_memRead1 _) fun b => oblivious_bind (oblivious_update fun _ => rfl) fun _ => oblivious_pure _
  · exact oblivious_bind (oblivious_update fun _ => rfl) fun _ => oblivious_pure _

theorem oblivious_receiveFrom : ∀ n v, Oblivious (·.touched q pl p) (receiveFrom n v)
  | 0, _ => oblivious_pure _
  | n + 1, _ => oblivious_bind oblivious_nextBit fun _ => oblivious_receiveFrom n _

theorem oblivious_receive (n : Nat) : Oblivious (·.touched q pl p) (receive n) := oblivious_receiveFrom n 0

theorem oblivious_walkTrie (codes : List Code) : ∀ fuel code len, Oblivious (·.touched q pl p) (walkTrie codes fuel code len)
  | 0, _, _ => oblivious_raise _
  | fuel + 1, code, len => by
    refine oblivious_bind oblivious_nextBit fun b => ?_
    dsimp only
    split
    · exact oblivious_pure _
    · exact oblivious_walkTrie codes fuel _ _

theorem oblivious_decodeHuff (t : Option HuffTable) : Oblivious (·.touched q pl p) (decodeHuff t) :=
  oblivious_bind (oblivious_orFormatError _) fun _ => oblivious_walkTrie _ _ _ _

/-! ### Refinement on a block held aside (R295, R316) -/

theorem oblivious_ruleCorrect (p1 : Int) (blk : Block) (k : Nat) : Oblivious (·.touched q pl p) (Rule.correct p1 blk k) :=
  oblivious_bind oblivious_nextBit fun _ => oblivious_pure _

theorem oblivious_ruleEobPass (p1 : Int) (se : Nat) : ∀ fuel k blk, Oblivious (·.touched q pl p) (Rule.eobPass p1 se fuel k blk)
  | 0, _, _ => oblivious_pure _
  | fuel + 1, k, blk => by
    refine oblivious_ite (oblivious_ite ?_ (oblivious_ruleEobPass p1 se fuel _ _)) (oblivious_pure _)
    exact oblivious_bind (oblivious_ruleCorrect _ _ _) fun _ => oblivious_ruleEobPass p1 se fuel _ _

end

/-- The block at `a` stored does not change what the bits are. -/
theorem withBlock_touched (s : State) (a : Address) (blk : Block) : s.withBlock a blk =
    s.touched id (fun pl => vset pl a.c ((vget pl a.c none).map fun p => p.setBlock a.x a.y blk)) id := rfl

theorem nextBit_withBlock {s u : State} {bit : Bool} (h : nextBit s = .ok (bit, u)) (a : Address) (blk : Block) :
    nextBit (s.withBlock a blk) = .ok (bit, u.withBlock a blk) := by
  rw [withBlock_touched, withBlock_touched]
  exact oblivious_nextBit.ok h

/-- Only a DCT plane has blocks. -/
theorem Plane.block?_some {p : Plane} {x y : Nat} {blk : Block} (h : p.block? x y = some blk) : ∃ bw bh blocks,
    p = .dct bw bh blocks ∧ (x < bw ∧ y < bh) ∧ ∃ hlt : y * bw + x < blocks.length, blocks[y * bw + x] = blk := by
  cases p with
  | lossless => cases h
  | dct bw bh blocks =>
    simp only [Plane.block?, Option.ite_none_right_eq_some, List.getElem?_eq_some_iff] at h
    exact ⟨bw, bh, blocks, rfl, h⟩

/-- A plane that holds a block holds what is stored there. -/
theorem Plane.block?_setBlock {p : Plane} {x y : Nat} {old : Block} (h : p.block? x y = some old) (blk : Block) :
    (p.setBlock x y blk).block? x y = some blk := by
  obtain ⟨bw, bh, blocks, rfl, hin, hlt, -⟩ := Plane.block?_some h
  simp [Plane.setBlock, Plane.block?, hin, hlt]

theorem Plane.setBlock_setBlock (p : Plane) (x y : Nat) (b b' : Block) : (p.setBlock x y b).setBlock x y b' = p.setBlock x y b' := by
  cases p <;> simp [Plane.setBlock]

theorem Plane.setBlock_self {p : Plane} {x y : Nat} {blk : Block} (h : p.block? x y = some blk) : p.setBlock x y blk = p := by
  obtain ⟨bw, bh, blocks, rfl, -, hlt, hget⟩ := Plane.block?_some h
  rw [Plane.setBlock, ← hget, List.set_getElem_self]

theorem vget_vset_same {α : Type} {n : Nat} {v : Vector α n} {i : Nat} (h : i < n) (x d : α) : vget (vset v i x) i d = x := by
  simp [vget, vset, h]

theorem vset_vset {α : Type} {n : Nat} (v : Vector α n) (i : Nat) (x y : α) : vset (vset v i x) i y = vset v i y := by
  simp [vset]

/-- An addressed block lies in a plane. -/
theorem plane_of_block? {s : State} {a : Address} {blk : Block} (h : s.block? a = some blk) :
    ∃ p, a.c < 4 ∧ s.plane a.c = some p ∧ p.block? a.x a.y = some blk := by
  obtain ⟨p, hp, hblk⟩ := Option.bind_eq_some_iff.1 h
  refine ⟨p, ?_, hp, hblk⟩
  by_contra hc
  have hnone : s.plane a.c = none := by simp [State.plane, vget, Nat.le_of_not_lt hc]
  rw [hnone] at hp
  cases hp

theorem block?_withBlock {s : State} {a : Address} {old : Block} (h : s.block? a = some old) (blk : Block) :
    (s.withBlock a blk).block? a = some blk := by
  obtain ⟨p, hc, hp, hold⟩ := plane_of_block? h
  have hplane : (s.withBlock a blk).plane a.c = some (p.setBlock a.x a.y blk) := by
    rw [State.plane, State.withBlock_arena, vget_vset_same hc, hp]
    rfl
  rw [State.block?, hplane]
  exact Plane.block?_setBlock hold blk

theorem withBlock_withBlock {s : State} {a : Address} {old : Block} (h : s.block? a = some old) (b b' : Block) :
    (s.withBlock a b).withBlock a b' = s.withBlock a b' := by
  obtain ⟨p, hc, hp, -⟩ := plane_of_block? h
  unfold State.withBlock State.mapPlane State.plane at *
  simp only [vset_vset, vget_vset_same hc, hp, Option.map_some, Plane.setBlock_setBlock]

theorem withBlock_self {s : State} {a : Address} {blk : Block} (h : s.block? a = some blk) : s.withBlock a blk = s := by
  obtain ⟨p, hc, hp, hblk⟩ := plane_of_block? h
  have hplanes : vset s.arena.planes a.c ((s.plane a.c).map fun p => p.setBlock a.x a.y blk) = s.arena.planes := by
    rw [hp, Option.map_some, Plane.setBlock_self hblk, ← hp]
    ext i hi
    by_cases hic : a.c = i <;> simp [vset, State.plane, vget, hic, hi]
  unfold State.withBlock State.mapPlane
  rw [hplanes]

/-! #### The loops of a refinement -/

/-- A sequence of two actions that ends was ended by both. -/
theorem act_bind_ok {α β : Type} {m : Act α} {k : α → Act β} {s : State} {r : β × State} (h : (m >>= k) s = .ok r) :
    ∃ a t, m s = .ok (a, t) ∧ k a t = .ok r := by
  rw [act_bind] at h
  cases hm : m s with
  | error e =>
    rw [hm] at h
    cases h
  | ok p =>
    rw [hm] at h
    exact ⟨p.1, p.2, rfl, h⟩

/-- Only the reader and the free-value counter differ. -/
abbrev ReadOn (s t : State) : Prop := ∃ rd d, t = { s with rd := rd, draws := d }

/-- Correct(k) on the block in its plane is Correct(k) on the block held aside. -/
theorem correct_aside {s u : State} {a : Address} {old blk blk' : Block} {k : Nat} (hold : s.block? a = some old)
    (h : Rule.correct (2 ^ s.sc.al.toNat) blk k s = .ok (blk', u)) :
    ReadOn s u ∧ correct a k (s.withBlock a blk) = .ok ((), u.withBlock a blk') := by
  obtain ⟨bit, t, hbit, h⟩ := act_bind_ok h
  obtain ⟨rd, d, rfl⟩ : ReadOn s t := ⟨_, _, (reads_nextBit s).1 _ _ hbit⟩
  have hold' : State.block? { s with rd := rd, draws := d } a = some old := hold
  have hcoeff := act_getCoeff (block?_withBlock hold' blk) k
  have hstore (v : Int) := act_setCoeff (block?_withBlock hold' blk) k v
  simp only [withBlock_withBlock hold'] at hstore
  cases h
  refine ⟨⟨rd, d, rfl⟩, ?_⟩
  simp only [correct, act_bind, nextBit_withBlock hbit, act_get, hcoeff]
  by_cases hset : (bit && vget blk k 0 / 2 ^ s.sc.al.toNat % 2 == 0) = true
  · rw [if_pos hset]
    exact (congrFun (if_pos hset) _).trans (hstore _)
  · rw [if_neg hset]
    exact congrFun (if_neg hset) _

/-- The end-of-band pass in the plane is the one held aside (R316). -/
theorem eobPass_aside {a : Address} {old : Block} : ∀ {fuel k : Nat} {s u : State} {blk blk' : Block}, s.block? a = some old →
    Rule.eobPass (2 ^ s.sc.al.toNat) s.sc.se.toNat fuel k blk s = .ok (blk', u) →
    ReadOn s u ∧ eobPass a fuel k (s.withBlock a blk) = .ok ((), u.withBlock a blk')
  | 0, k, s, u, blk, blk', _, h => by
    cases h
    exact ⟨⟨_, _, rfl⟩, rfl⟩
  | fuel + 1, k, s, u, blk, blk', hold, h => by
    have hcoeff := act_getCoeff (block?_withBlock hold blk) k
    rw [Rule.eobPass] at h
    by_cases hk : k ≤ s.sc.se.toNat
    swap
    · have hk' : ¬ k ≤ (s.withBlock a blk).sc.se.toNat := hk
      rw [if_neg hk] at h
      cases h
      refine ⟨⟨_, _, rfl⟩, ?_⟩
      simp only [eobPass, act_bind, act_get, if_neg hk', act_pure]
    have hk' : k ≤ (s.withBlock a blk).sc.se.toNat := hk
    rw [if_pos hk] at h
    by_cases hv : vget blk k 0 ≠ 0
    · rw [if_pos hv] at h
      obtain ⟨blk₁, t, hc, h⟩ := act_bind_ok h
      obtain ⟨⟨rd, d, rfl⟩, hcorrect⟩ := correct_aside hold hc
      obtain ⟨⟨rd', d', hu⟩, hrest⟩ := eobPass_aside (s := { s with rd := rd, draws := d }) hold h
      refine ⟨⟨rd', d', hu⟩, ?_⟩
      simp only [eobPass, act_bind, act_get, if_pos hk', hcoeff, if_pos hv, hcorrect, hrest]
    · rw [if_neg hv] at h
      obtain ⟨hu, hrest⟩ := eobPass_aside hold h
      refine ⟨hu, ?_⟩
      simp only [eobPass, act_bind, act_get, if_pos hk', hcoeff, if_neg hv, hrest]

/-- The skip over zero-history coefficients in the plane is the one held aside (R316). -/
theorem refineSkip_aside {a : Address} {old : Block} : ∀ {fuel k r : Nat} {s u : State} {blk blk' : Block} {k' : Nat},
    s.block? a = some old →
    Rule.skipZeros (2 ^ s.sc.al.toNat) s.sc.se.toNat fuel k r blk s = .ok ((k', blk'), u) →
    ReadOn s u ∧ refineSkip a fuel k r (s.withBlock a blk) = .ok (k', u.withBlock a blk')
  | 0, k, r, s, u, blk, blk', k', _, h => by
    cases h
    exact ⟨⟨_, _, rfl⟩, rfl⟩
  | fuel + 1, k, r, s, u, blk, blk', k', hold, h => by
    have hcoeff := act_getCoeff (block?_withBlock hold blk) k
    rw [Rule.skipZeros] at h
    by_cases hk : k ≤ s.sc.se.toNat
    swap
    · have hk' : ¬ k ≤ (s.withBlock a blk).sc.se.toNat := hk
      rw [if_neg hk] at h
      cases h
      refine ⟨⟨_, _, rfl⟩, ?_⟩
      simp only [refineSkip, act_bind, act_get, if_neg hk', act_pure]
    have hk' : k ≤ (s.withBlock a blk).sc.se.toNat := hk
    rw [if_pos hk] at h
    by_cases hv : vget blk k 0 ≠ 0
    · rw [if_pos hv] at h
      obtain ⟨blk₁, t, hc, h⟩ := act_bind_ok h
      obtain ⟨⟨rd, d, rfl⟩, hcorrect⟩ := correct_aside hold hc
      obtain ⟨⟨rd', d', hu⟩, hrest⟩ := refineSkip_aside (s := { s with rd := rd, draws := d }) hold h
      refine ⟨⟨rd', d', hu⟩, ?_⟩
      simp only [refineSkip, act_bind, act_get, if_pos hk', hcoeff, if_pos hv, hcorrect, hrest]
    rw [if_neg hv] at h
    by_cases hr : r = 0
    · rw [if_pos hr] at h
      cases h
      refine ⟨⟨_, _, rfl⟩, ?_⟩
      simp only [refineSkip, act_bind, act_get, if_pos hk', hcoeff, if_neg hv, if_pos hr, act_pure]
    · rw [if_neg hr] at h
      obtain ⟨hu, hrest⟩ := refineSkip_aside hold h
      refine ⟨hu, ?_⟩
      simp only [refineSkip, act_bind, act_get, if_pos hk', hcoeff, if_neg hv, if_neg hr, hrest]

/-! ### AC symbols of a refinement scan (R316) -/

section
variable {s : State} {b : OpenBlock} {blk : Block} (hb : s.sq.block = some b) (hm : b.mode = .refine) (hblk : s.block? b.addr = some blk)
include hb hm hblk

/-- An end-of-band symbol: its run counts this block, whose band is corrected. -/
theorem endOfBand_refine {r v : Nat} {u w : State} {blk' : Block} (hrecv : receive r s = .ok (v, u))
    (hpass : Rule.eobPass (2 ^ s.sc.al.toNat) s.sc.se.toNat 64 b.k blk u = .ok (blk', w)) :
    endOfBandAct r s = .ok ((), { (w.withBlock b.addr blk') with
      pr := { w.pr with eobrun := 2 ^ r + v - 1 }, sq := { w.sq with block := none } }) := by
  have hseq : ¬ b.mode = .seq := by rw [hm]; decide
  obtain ⟨rd, d, rfl⟩ := receive_reads hrecv
  let t : State := { s with rd := rd, draws := d, pr := { s.pr with eobrun := 2 ^ r + v } }
  have hpass' : Rule.eobPass (2 ^ t.sc.al.toNat) t.sc.se.toNat 64 b.k blk t =
      .ok (blk', { w with pr := { w.pr with eobrun := 2 ^ r + v } }) :=
    (oblivious_ruleEobPass (q := id) (pl := id) (p := fun p => { p with eobrun := 2 ^ r + v }) _ _ _ _ _).ok hpass
  obtain ⟨-, hmodel⟩ := eobPass_aside (s := t) hblk hpass'
  rw [withBlock_self (s := t) hblk] at hmodel
  simp only [endOfBandAct, act_bind, act_theBlock hb, if_neg hseq, hrecv, if_pos hm, act_setEobrun, eobBlock, act_get]
  rw [hmodel]
  rfl

theorem zrl_refine {k : Nat} {u : State} {blk' : Block}
    (hskip : Rule.skipZeros (2 ^ s.sc.al.toNat) s.sc.se.toNat 64 b.k 15 blk s = .ok ((k, blk'), u)) :
    zrlAct s = .ok ((), { (u.withBlock b.addr blk') with sq := { u.sq with block := b.movedTo s.sc.se.toNat (k + 1) } }) := by
  obtain ⟨⟨rd, d, rfl⟩, hmodel⟩ := refineSkip_aside hblk hskip
  rw [withBlock_self hblk] at hmodel
  have hend (t : State) : t.bandEnd b = t.sc.se.toNat := if_neg (by rw [hm]; decide)
  simp only [zrlAct, act_bind, act_theBlock hb, act_get, if_pos hm, hmodel, act_moveTo, hend]
  rfl

omit hblk in
theorem coeff_category (r : Nat) {sz : Nat} (h : sz ≠ 1) : coeffAct r sz s = .error (.raise .formatError s) := by
  simp only [coeffAct, act_bind, act_theBlock hb, act_get, if_pos hm, act_require, beq_iff_eq, if_neg h]

/-- A coefficient is placed behind the zeros that are skipped, where the band has a place for it. -/
theorem coeff_refine {r k : Nat} {bit : Bool} {u w : State} {blk' : Block} (hbit : nextBit s = .ok (bit, u))
    (hskip : Rule.skipZeros (2 ^ s.sc.al.toNat) s.sc.se.toNat 64 b.k r blk u = .ok ((k, blk'), w)) :
    coeffAct r 1 s = if k ≤ s.sc.se.toNat then
        .ok ((), { (w.withBlock b.addr (vset blk' k (if bit then 2 ^ s.sc.al.toNat else -2 ^ s.sc.al.toNat))) with
          sq := { w.sq with block := b.movedTo s.sc.se.toNat (k + 1) } })
      else .error (.raise .formatError (w.withBlock b.addr blk')) := by
  have hend (t : State) : t.bandEnd b = t.sc.se.toNat := if_neg (by rw [hm]; decide)
  obtain ⟨rd, d, rfl⟩ : ReadOn s u := ⟨_, _, (reads_nextBit s).1 _ _ hbit⟩
  have hblk₁ : State.block? { s with rd := rd, draws := d } b.addr = some blk := hblk
  obtain ⟨⟨rd', d', rfl⟩, hmodel⟩ := refineSkip_aside hblk₁ hskip
  rw [withBlock_self hblk₁] at hmodel
  have hblk₂ : State.block? { s with rd := rd', draws := d' } b.addr = some blk := hblk
  have hstore (v : Int) := act_setCoeff (block?_withBlock hblk₂ blk') k v
  simp only [withBlock_withBlock hblk₂] at hstore
  simp only [coeffAct, act_bind, act_theBlock hb, act_get, if_pos hm, act_require, hbit, hmodel, hend, beq_self_eq_true, if_true]
  by_cases hk : k ≤ s.sc.se.toNat
  · simp only [hk, decide_true, if_true, hstore, act_moveTo, hend]
    rfl
  · simp only [hk, decide_false, Bool.false_eq_true, if_false]

end

/-- Settles O40: the loops on the block held aside are those in its plane. -/
theorem acSymbolsOfARefinement : Obligations.AcSymbolsOfARefinement := by
  intro s b blk hb hm hblk se p1 on
  refine ⟨fun blk' u hpass => runAct_ok (endOfBand_refine (r := 0) (v := 0) hb hm hblk rfl hpass),
    fun r v u blk' w hrecv hpass => runAct_ok (endOfBand_refine hb hm hblk hrecv hpass),
    fun k blk' u hskip => runAct_ok (zrl_refine hb hm hblk hskip),
    fun r sz hsz => runAct_raise (coeff_category hb hm r.toNat fun h => hsz (BitVec.eq_of_toNat_eq h)),
    fun r bit u k blk' w hbit hskip => ?_⟩
  have hcoeff := coeff_refine hb hm hblk hbit hskip
  refine ⟨fun hk => runAct_ok (hcoeff.trans (if_pos hk)), fun hk => ?_⟩
  have hraise : coeffAct r.toNat 1 s = .error (.raise .formatError (w.withBlock b.addr blk')) := hcoeff.trans (if_neg (Nat.not_le.2 hk))
  exact (runAct_raise hraise).trans rfl

end Sys2Proof.Machine

namespace Sys2Proof.Machine

/-! ### The lossless store (R404, R405, R406, R412) -/

/-- The predictor selected by SS (R406). -/
theorem predictSv_eq (ss : BitVec 6) (ra rb rc : Int) : predictSv ss.toNat ra rb rc =
    if ss = 1 then ra else if ss = 2 then rb else if ss = 3 then rc
    else if ss = 4 then ra + rb - rc else if ss = 5 then ra + (rb - rc) / 2
    else if ss = 6 then rb + (ra - rc) / 2 else if ss = 7 then (ra + rb) / 2 else 0 := by
  have hss (k : BitVec 6) : ss = k ↔ ss.toNat = k.toNat := BitVec.toNat_inj.symm
  simp only [hss]
  generalize ss.toNat = n
  match n with
  | 0 | 1 | 2 | 3 | 4 | 5 | 6 | 7 => rfl
  | n + 8 => simp [predictSv]

theorem act_getSample {s : State} {a : Address} {v : BitVec 16} (h : s.sample? a = some v) :
    getSample a s = .ok ((v.toNat : Int), s) := by
  simp [getSample, h]

theorem act_predictSample {s : State} {a : Address} {px : Int} (h : s.predicts a px) : predictSample a s = .ok (px, s) := by
  unfold State.predicts at h
  simp only [predictSample, act_bind, act_get, act_ite]
  by_cases hd : s.fr.ft.getLsbD 2 = true
  · have hdiff : s.fr.isDifferential = true := hd
    rw [if_pos hd] at h
    rw [if_pos hdiff, act_pure, h]
  have hdiff : ¬ s.fr.isDifferential = true := hd
  rw [if_neg hd] at h
  rw [if_neg hdiff]
  by_cases hstart : a.y = s.firstRow a.c ∧ a.x = 0
  · rw [if_pos hstart] at h
    rw [if_pos hstart, act_pure, h]
  rw [if_neg hstart] at h
  rw [if_neg hstart]
  by_cases hy : a.y = s.firstRow a.c
  · rw [if_pos hy] at h
    obtain ⟨ra, hra, rfl⟩ := h
    rw [if_pos hy, act_getSample hra]
  rw [if_neg hy] at h
  rw [if_neg hy]
  by_cases hx : a.x = 0
  · rw [if_pos hx] at h
    obtain ⟨rb, hrb, rfl⟩ := h
    rw [if_pos hx, act_getSample hrb]
  rw [if_neg hx] at h
  obtain ⟨ra, rb, rc, hra, hrb, hrc, rfl⟩ := h
  simp only [if_neg hx, act_getSample hra, act_getSample hrb, act_getSample hrc, act_pure, predictSv_eq]

theorem act_setSample {s : State} {a : Address} (h : s.sample? a ≠ none) (v : BitVec 16) :
    setSample a v s = .ok ((), s.withSample a v) := by
  obtain ⟨old, hold⟩ := Option.ne_none_iff_exists'.1 h
  simp only [setSample, act_bind, act_get, act_orUndefined, hold]
  rfl

theorem act_storeSample {s : State} {a : Address} {diff px : Int} (hin : s.sample? a ≠ none) (hpx : s.predicts a px) :
    storeSample a diff s = .ok ((), { (s.withSample a (BitVec.ofInt 16 (px + diff))) with
      pr := s.pr.recordDiff a (s.fr.unitRow a) diff }) := by
  simp only [storeSample, act_bind, act_predictSample hpx, act_setSample hin, act_update]
  rfl

theorem exec_losslessDiff {t : BitVec 4} {s u w : State} {b : OpenBlock} {v : Nat} (hb : s.sq.block = some b)
    (hrecv : receive t.toNat s = .ok (v, u)) (hstore : storeSample b.addr (extend v t.toNat) u = .ok ((), w)) :
    exec (.losslessDiff t) s = .next { w with sq := { w.sq with block := none } } :=
  runAct_ok (by simp only [losslessDiffAct, act_bind, act_theBlock hb, hrecv, hstore, act_closeBlock])

/-! ### The lossless routines (R400, R420) -/

theorem act_currentAddress {s : State} {e : McuEntry} (h : s.sc.mcud[s.sc.entry]? = some e) :
    currentAddress s = .ok (s.addressOf e, s) := by
  simp [currentAddress, h]

/-- The state once LDA of the row is 0 before a sample at x = 0 (R412). -/
def State.rowStarted (s : State) (a : Address) : State :=
  if a.x = 0 then { s with pr := s.pr.setLeft a (s.fr.unitRow a) 0 } else s

theorem act_rowStart (a : Address) (s : State) : rowStart a s = .ok ((), s.rowStarted a) := rfl

/-- Starting a row changes LDA only. -/
theorem rowStarted_eq (s : State) (a : Address) : s.rowStarted a = { s with pr := (s.rowStarted a).pr } := by
  unfold State.rowStarted
  split <;> rfl

/-- The block of a lossless sample in progress. -/
def losslessBlock (a : Address) : OpenBlock := ⟨.lossless, a, 0, .dc⟩

/-- The sample's block in progress; what a lossless symbol does does not depend on it. -/
def State.opened (s : State) (b : Option OpenBlock) : State := s.touched (fun q => { q with block := b }) id id

/-- One codeword, the extra bits of its difference, and the sample (R400). -/
def losslessSymbol (a : Address) (table : Option HuffTable) : Act Unit := do
  let t ← decodeHuff table
  if t.toNat ≥ 16 then raise .formatError
  else
    let v ← receive t.toNat
    storeSample a (extend v t.toNat)

theorem oblivious_getSample (b : Option OpenBlock) (a : Address) : Oblivious (·.opened b) (getSample a) :=
  oblivious_read (fun _ => rfl) fun _ => oblivious_bind (oblivious_orUndefined _ _) fun _ => oblivious_pure _

theorem oblivious_predictSample (b : Option OpenBlock) (a : Address) : Oblivious (·.opened b) (predictSample a) := by
  refine oblivious_read (fun _ => rfl) fun s => oblivious_ite (oblivious_pure _) (oblivious_ite (oblivious_pure _)
    (oblivious_ite (oblivious_getSample b _) (oblivious_ite (oblivious_getSample b _) ?_)))
  exact oblivious_bind (oblivious_getSample b _) fun _ => oblivious_bind (oblivious_getSample b _) fun _ =>
    oblivious_bind (oblivious_getSample b _) fun _ => oblivious_pure _

theorem oblivious_setSample (b : Option OpenBlock) (a : Address) (v : BitVec 16) : Oblivious (·.opened b) (setSample a v) :=
  oblivious_read (fun _ => rfl) fun _ => oblivious_bind (oblivious_orUndefined _ _) fun _ => oblivious_update fun _ => rfl

theorem oblivious_storeSample (b : Option OpenBlock) (a : Address) (diff : Int) : Oblivious (·.opened b) (storeSample a diff) :=
  oblivious_bind (oblivious_predictSample b a) fun _ => oblivious_bind (oblivious_setSample b a _) fun _ =>
    oblivious_update fun _ => rfl

theorem oblivious_losslessSymbol (b : Option OpenBlock) (a : Address) (table : Option HuffTable) :
    Oblivious (·.opened b) (losslessSymbol a table) :=
  oblivious_bind (oblivious_decodeHuff table) fun _ => oblivious_ite (oblivious_raise _)
    (oblivious_bind (oblivious_receive _) fun _ => oblivious_storeSample b a _)

/-- A lossless symbol is a category below 16 (R156). -/
theorem decodeInstr_lossless (sym : Byte) :
    decodeInstr .symLossless [sym] = if sym.toNat ≥ 16 then none else some (.losslessDiff (sym.setWidth 4)) := by
  by_cases h : sym < 0x10
  · have hcat : decodeSymLossless sym = .ok (.losslessDiff (sym.setWidth 4)) := if_pos h
    have hlt : ¬ sym.toNat ≥ 16 := Nat.not_le.2 h
    rw [decodeInstr, decode, hcat, if_neg hlt]
    rfl
  · have hcat : decodeSymLossless sym = .error .categoryTooLarge := if_neg h
    have hge : sym.toNat ≥ 16 := Nat.le_of_not_lt h
    rw [decodeInstr, decode, hcat, if_pos hge]
    rfl

/-- With a lossless sample in progress the symbols to decode are one. -/
theorem runSymbols_lossless {s : State} {a : Address} (hb : s.sq.block = some (losslessBlock a)) (n : Nat) :
    runSymbols (n + 1) s =
      (losslessSymbol a (vget s.arena.dcTables (s.fr.compAt a.c).td.toNat none) >>= fun _ => closeBlock) s := by
  have htable : s.symbolTable (losslessBlock a) = vget s.arena.dcTables (s.fr.compAt a.c).td.toNat none := rfl
  have haddr : (losslessBlock a).addr = a := rfl
  have hspace : (losslessBlock a).symbolSpace = .symLossless := rfl
  simp only [runSymbols, fetchSymbol, losslessSymbol, act_bind, act_theBlock hb, act_get, htable, hspace, act_orFormatError,
    decodeInstr_lossless]
  cases hsym : decodeHuff (vget s.arena.dcTables (s.fr.compAt a.c).td.toNat none) s with
  | error e => rfl
  | ok p =>
    obtain ⟨sym, t⟩ := p
    have hbt : t.sq.block = some (losslessBlock a) := by
      rw [(reads_decodeHuff _ s).1 _ _ hsym]
      exact hb
    by_cases hlt : sym.toNat ≥ 16
    · simp only [if_pos hlt, act_raise]
    have hwidth : (sym.setWidth 4).toNat = sym.toNat := by
      rw [BitVec.toNat_setWidth]
      exact Nat.mod_eq_of_lt (Nat.not_le.1 hlt)
    simp only [if_neg hlt, symbolAct, losslessDiffAct, act_bind, act_theBlock hbt, hwidth]
    cases receive sym.toNat t with
    | error e => rfl
    | ok p =>
      dsimp only
      rw [haddr]
      cases storeSample a (extend p.1 sym.toNat) p.2 <;> rfl

/-- The rule is the symbol, and no sample in progress. -/
theorem ruleHufLossless_eq (a : Address) (s : State) : Rule.hufLossless a s =
    (losslessSymbol a (vget s.arena.dcTables (s.fr.compAt a.c).td.toNat none) >>= fun _ => closeBlock) (s.rowStarted a) := by
  have harena : (s.rowStarted a).arena = s.arena := by rw [rowStarted_eq]
  have hframe : (s.rowStarted a).fr = s.fr := by rw [rowStarted_eq]
  simp only [Rule.hufLossless, losslessSymbol, act_bind, act_rowStart, act_get, harena, hframe]
  cases decodeHuff (vget s.arena.dcTables (s.fr.compAt a.c).td.toNat none) (s.rowStarted a) with
  | error e => rfl
  | ok p =>
    dsimp only
    split
    · rfl
    · simp only [act_bind]
      cases receive p.1.toNat p.2 <;> rfl

/-- The block in progress is gone once it is closed, and in a failure. -/
theorem runAct_opened {m : Act Unit} {b : Option OpenBlock} (h : Oblivious (·.opened b) m) (s : State) :
    runAct (m >>= fun _ => closeBlock) (s.opened b) = runAct (m >>= fun _ => closeBlock) s := by
  have hm : m (s.opened b) = answerAt (·.opened b) (m s) := h s
  simp only [runAct, act_bind, hm]
  rcases m s with (⟨e, t⟩ | x) | ⟨a, t⟩ <;> rfl

/-- HUF_LOSSLESS is the procedure of R400, errors included. -/
theorem hufLossless_eq {s : State} {e : McuEntry} (he : s.sc.mcud[s.sc.entry]? = some e) :
    runAct hufLosslessAct s = runAct (Rule.hufLossless (s.addressOf e)) s := by
  generalize ha : s.addressOf e = a
  let sample := losslessSymbol a (vget s.arena.dcTables (s.fr.compAt a.c).td.toNat none)
  let s1 := (s.rowStarted a).opened (some (losslessBlock a))
  have harena : s1.arena.dcTables = s.arena.dcTables := congrArg (·.arena.dcTables) (rowStarted_eq s a)
  have hframe : s1.fr = s.fr := congrArg (·.fr) (rowStarted_eq s a)
  have hmodel : hufLosslessAct s = (sample >>= fun _ => closeBlock) s1 := by
    have hrun : runSymbols symbolBound s1 = _ := runSymbols_lossless (a := a) rfl 65
    rw [harena, hframe] at hrun
    rw [← hrun, hufLosslessAct, act_bind, act_currentAddress he, ha]
    rfl
  calc runAct hufLosslessAct s
    _ = runAct (sample >>= fun _ => closeBlock) s1 := by simp only [runAct, hmodel]
    _ = runAct (sample >>= fun _ => closeBlock) (s.rowStarted a) := runAct_opened (oblivious_losslessSymbol _ a _) _
    _ = runAct (Rule.hufLossless a) s := by simp only [runAct, ruleHufLossless_eq, sample]

/-- ARI_LOSSLESS takes the difference from the decision tree in the context of its neighbours and stores it. -/
theorem ariLossless_ok {s u t : State} {e : McuEntry} {diff : Int} (he : s.sc.mcud[s.sc.entry]? = some e) :
    let a := s.addressOf e
    let s0 := s.rowStarted a
    let c := llArithCtx s.params (s0.pr.left a (s.fr.unitRow a)) (s0.pr.above a) (s.condL a.c) (s.condU a.c)
    decodeDiffLl (s.fr.compAt a.c).td.toNat c.1 c.2 s0 = .ok (diff, u) → storeSample a diff u = .ok ((), t) →
    ariLosslessAct s = .ok ((), t) := by
  intro a s0 c hdiff hstore
  have hs0 : s0 = { s with pr := s0.pr } := rowStarted_eq s a
  have hctx : llArithCtx s0.params (s0.pr.left a (s0.fr.unitRow a)) (s0.pr.above a) (s0.condL a.c) (s0.condU a.c) = c := by
    rw [hs0]
    rfl
  have hframe : s0.fr = s.fr := congrArg (·.fr) hs0
  simp only [ariLosslessAct, act_bind, act_currentAddress he, act_rowStart, act_get]
  rw [hctx, hframe, hdiff]
  exact hstore

/-- Settles O43: the store, the lossless symbol, the two routines. -/
theorem losslessInstructions : Obligations.LosslessInstructions := by
  refine ⟨fun s a diff px hin hpx => act_storeSample hin hpx, fun t s u w b v hb hrecv hstore => exec_losslessDiff hb hrecv hstore,
    fun d s e he _ => ?_⟩
  have heq : exec (.hufLossless d) s = runAct (Rule.hufLossless (s.addressOf e)) s := hufLossless_eq he
  exact ⟨heq, fun t ht => heq.trans (runAct_ok ht), fun diff u t hdiff hstore => runAct_ok (ariLossless_ok he hdiff hstore)⟩

end Sys2Proof.Machine

namespace Sys2Proof.Machine

/-! ### A marker at a known offset: SOI, and the markers replayed (R200, R215, R216) -/

/-- A marker at a known offset is dispatched: MOFF is its offset, BP its length field (R202). -/
def State.visiting (s : State) (off : Nat) : State :=
  { s with rd := { s.rd with bp := off + 2 }, sq := { s.sq with moff := off } }

@[simp] theorem act_visit (off : Nat) (s : State) : visit off s = .ok ((), s.visiting off) := rfl

/-- MemRead(off, 2) that reaches beyond IN_LEN (R101). -/
theorem memRead2_beyond {s : State} {off : Nat} (h : s.inLen < off + 2) : memRead2 off s = .error (.raise .formatError s) := by
  simp [memRead2, h]

theorem fetch_soi {s : State} (hp : s.sq.phase = .soi) : fetch s = fetchSoi s := by simp [fetch, hp]

theorem fetchSoi_short {s : State} (h : s.inLen < 2) : fetchSoi s = .error (.raise .formatError s) := by
  simp [fetchSoi, memRead2_beyond (off := 0) h]

theorem fetchSoi_other {s : State} (hread : s.readable 0 2) (hw : s.inWord 0 ≠ 0xFFD8) : fetchSoi s = .error (.raise .formatError s) := by
  simp [fetchSoi, memRead2_ok hread, hw]

theorem fetchSoi_ok {s : State} (hread : s.readable 0 2) (hw : s.inWord 0 = 0xFFD8) :
    fetchSoi s = .ok (some .soi, s.visiting 0) := by
  simp [fetchSoi, memRead2_ok hread, hw]

/-- SOI where it is expected: BP is past it, and the layout scan follows (R200). -/
theorem exec_soi_first {s : State} (hp : s.sq.phase = .soi) : exec .soi s =
    .next { s with rd := { s.rd with bp := 2 }, sq := { s.sq with phase := .scan } } :=
  runAct_ok (by simp [scanSoi, hp, setPhase])

/-- Settles O5: the first two bytes are missing, others, or SOI. -/
theorem streamStartsWithSoi : Obligations.StreamStartsWithSoi := by
  intro s hs hp hu
  refine ⟨fun hshort => ?_, fun hread hw => ?_, fun hread hw => ?_⟩
  · exact step_fetch_raise hs hu (by rw [fetch_soi hp, fetchSoi_short hshort])
  · exact step_fetch_raise hs hu (by rw [fetch_soi hp, fetchSoi_other hread hw])
  · have hstep : step s = settle (exec .soi (s.visiting 0)) := step_fetched hs hu (by rw [fetch_soi hp, fetchSoi_ok hread hw])
    refine ⟨hstep, ?_⟩
    rw [hstep, exec_soi_first (s := s.visiting 0) hp]
    exact settle_next (.inl nofun)

/-- The next AUX entry, which lies before the marker: it is replayed, and not again (R216). -/
theorem fetchReplay_entry {s : State} {limit : Nat} {a : AuxRec} (last : Instr) (ha : s.arena.layout.aux[s.sq.auxPos]? = some a)
    (hlt : a.off < limit) : fetchReplay limit last s = .ok (some a.marker.instr, { s with
      rd := { s.rd with bp := a.off + 2 }, sq := { s.sq with moff := a.off, auxPos := s.sq.auxPos + 1 } }) := by
  simp only [fetchReplay, act_bind, act_get, ha, act_ite, if_pos hlt, act_visit, act_update, act_pure]
  rfl

/-- No AUX entry before the marker is left: the marker itself (R215). -/
theorem fetchReplay_last {s : State} {limit : Nat} (last : Instr)
    (h : ∀ a, s.arena.layout.aux[s.sq.auxPos]? = some a → limit ≤ a.off) :
    fetchReplay limit last s = .ok (some last, s.visiting limit) := by
  cases ha : s.arena.layout.aux[s.sq.auxPos]? with
  | none => simp [fetchReplay, ha]
  | some a => simp [fetchReplay, ha, Nat.not_lt.2 (h a ha)]

/-- The marker of a frame record is that of its code (R133). -/
theorem decodeInstr_sof {n : BitVec 4} {i : Instr} (h : (n, i) ∈ sofMarkers) :
    decodeInstr .marker [0xFF, 0xC0 ||| n.setWidth 8] = some i := by
  have hall : ∀ p ∈ sofMarkers, decodeInstr .marker [0xFF, 0xC0 ||| p.1.setWidth 8] = some p.2 := by decide
  exact hall _ h

theorem fetch_frame {s : State} {f : FrameRec} {i : Instr} (hp : s.sq.phase = .replaySof) (hf : s.frameRec = some f)
    (hi : (f.n, i) ∈ sofMarkers) : fetch s = fetchReplay f.sofOff i s := by
  simp only [fetch, act_bind, act_get, hp, fetchFrame, act_orUndefined, hf, decodeInstr_sof hi]

theorem fetch_scanHeader {s : State} {r : ScanRec} (hp : s.sq.phase = .replaySos) (hr : s.scanRec = some r) :
    fetch s = fetchReplay r.sosOff .sos s := by
  simp [fetch, hp, fetchScan, hr]

/-- Settles O8: before a SOF and before a SOS the same replay, and then the next AUX entry or none. -/
theorem stepReplaysTheTables : Obligations.StepReplaysTheTables := by
  intro s limit last hs hu hlast
  have hfetch : fetch s = fetchReplay limit last s := by
    rcases hlast with ⟨hp, f, i, hf, hi, rfl, rfl⟩ | ⟨hp, r, hr, rfl, rfl⟩
    · exact fetch_frame hp hf hi
    · exact fetch_scanHeader hp hr
  exact ⟨fun a ha hlt => step_fetched hs hu (hfetch.trans (fetchReplay_entry last ha hlt)),
    fun h => step_fetched hs hu (hfetch.trans (fetchReplay_last last h))⟩

end Sys2Proof.Machine

namespace Sys2Proof.Machine

/-! ### Illegal and restart markers (R201, R206-R208) -/

theorem exec_reserved {i : Instr} (h : isReserved i = true) (s : State) : exec i s = runAct scanIllegal s := by
  cases i
  case tem | res02 | res04 | res08 | res10 | res20 | res40 | res80 | jpg | jpg0 | jpg8 | jpg12 => rfl
  all_goals cases h

theorem scanSoi_illegal {s : State} (hp : s.sq.phase ≠ .soi) : scanSoi s = .error (.raise .formatError s) := by
  simp [scanSoi, hp]

theorem scanRst_outside {s : State} (hp : s.sq.phase ≠ .entropy) (m : BitVec 3) : scanRst m s = .error (.raise .formatError s) := by
  simp [scanRst, hp]

/-- In entropy data the interval is recorded before the number of the marker is checked (R206). -/
theorem scanRst_inside {s : State} (hp : s.sq.phase = .entropy) (hroom : s.roomFor .layoutRecord) (m : BitVec 3) :
    scanRst m s = (require (m == s.sc.expectRst) >>= fun _ => update fun s => { s with
      sc := { s.sc with expectRst := s.sc.expectRst + 1 }
      rd := { s.rd with bp := s.sq.moff + 2 }
      sq := { s.sq with ivstart := s.sq.moff + 2 } })
      (s.recorded fun l => l.addInterval ⟨s.sq.ivstart, s.rd.bp - s.sq.ivstart⟩) := by
  simp [scanRst, hp, appendInterval, appendRecord_ok _ hroom]

/-- Settles O16: a reserved marker and a second SOI; RSTm outside entropy data; RSTm inside by its number. -/
theorem illegalAndRestartMarkers : Obligations.IllegalAndRestartMarkers := by
  refine ⟨fun i s hi => ?_, fun m s hp => runAct_raise (scanRst_outside hp m), fun m s hp hroom => ⟨fun hm => ?_, fun hm => ?_⟩⟩
  · rcases hi with hi | ⟨rfl, hp⟩
    · exact (exec_reserved hi s).trans (runAct_raise rfl)
    · exact runAct_raise (scanSoi_illegal hp)
  · refine runAct_ok ?_
    rw [scanRst_inside hp hroom, hm]
    simp
  · refine runAct_raise ?_
    rw [scanRst_inside hp hroom]
    simp [hm]

/-! ### SOS in the layout scan (R204, R205) -/

theorem scanSos_noFrame {s : State} (h : s.arena.layout.frames = []) : scanSos s = .error (.raise .formatError s) := by
  simp [scanSos, h]

theorem scanSos_badLength {s : State} {lx : Nat} (hne : s.arena.layout.frames ≠ []) (hseg : s.segmentAt lx)
    (hlen : ¬ s.scanLengthOk lx) : scanSos s = .error (.raise .formatError s) := by
  simp [scanSos, hne, readLength_ok hseg, readNs_bad hseg hlen]

theorem scanSos_ok {s : State} {lx : Nat} (hne : s.arena.layout.frames ≠ []) (hseg : s.segmentAt lx) (hlen : s.scanLengthOk lx)
    (hroom : s.roomFor .layoutRecord) : let u := (s.recorded fun l => l.addScan s.sq.moff).past lx
    scanSos s = .ok ((), { u with
      sq := { u.sq with ivstart := u.rd.bp, phase := .entropy }, sc := { u.sc with expectRst := 0 } }) := by
  simp [scanSos, hne, readLength_ok hseg, readNs_ok hseg hlen, appendRecord_ok _ hroom, skipSegment_ok]

/-- Settles O18: no frame, a bad length, or the record. -/
theorem sosOpensAScan : Obligations.SosOpensAScan := by
  intro s hscan
  have hexec : exec .sos s = runAct scanSos s := runAct_congr (byPhase_scanning hscan _ _)
  rw [hexec]
  refine ⟨fun hnil => runAct_raise (scanSos_noFrame hnil), fun lx hseg hne => ?_⟩
  refine ⟨fun h3 hlx h1 h4 hroom => runAct_ok (scanSos_ok hne hseg ⟨h3, hlx, h1, h4⟩ hroom), fun hbad => ?_⟩
  refine runAct_raise (scanSos_badLength hne hseg ?_)
  rintro ⟨h3, hlx, h1, h4⟩
  unfold State.scanNs at hlx h1 h4
  omega

end Sys2Proof.Machine

namespace Sys2Proof.Machine

/-! ### DRI, DNL and EXP replayed (R223, R224, R226) -/

theorem replayDri_eq {s : State} {lx : Nat} (h : s.segmentAt lx) : replayDri s =
    if lx = 4 then .ok ((), { s.past lx with tb := { s.tb with ri := BitVec.ofNat 16 (s.inWord (s.rd.bp + 2)) } })
    else .error (.raise .formatError s) := by
  by_cases hlx : lx = 4
  · have hri : s.readable (s.rd.bp + 2) 2 := h.bytes (by omega) (by omega)
    simp [replayDri, readLength_ok h, hlx, memRead2_ok hri, skipSegment_ok, State.past]
  · simp [replayDri, readLength_ok h, hlx]

theorem replayDnl_eq {s : State} {lx : Nat} (h : s.segmentAt lx) : replayDnl s =
    if lx = 4 then .ok ((), s.past lx) else .error (.raise .formatError s) := by
  by_cases hlx : lx = 4 <;> simp [replayDnl, readLength_ok h, hlx, skipSegment_ok]

/-- What EXP asks of its segment (R226). -/
def State.expOk (s : State) (lx : Nat) : Prop :=
  s.hi.dhp ≠ none ∧ lx = 3 ∧ hiNibble (s.inByte (s.rd.bp + 2)) ≤ 1 ∧ loNibble (s.inByte (s.rd.bp + 2)) ≤ 1

theorem replayExp_ok {s : State} {lx : Nat} (h : s.segmentAt lx) (hok : s.expOk lx) : replayExp s = .ok ((), { s.past lx with
    hi := { s.hi with exp := some (hiNibble (s.inByte (s.rd.bp + 2)) == 1, loNibble (s.inByte (s.rd.bp + 2)) == 1) } }) := by
  obtain ⟨hdhp, hlx, hh, hv⟩ := hok
  have he : s.readable (s.rd.bp + 2) 1 := h.bytes (by omega) (by omega)
  simp [replayExp, readLength_ok h, State.hierarchical, Option.isSome_iff_ne_none.2 hdhp, hlx, memRead1_ok he, hh, hv, skipSegment_ok, State.past]

theorem replayExp_bad {s : State} {lx : Nat} (h : s.segmentAt lx) (hbad : ¬ s.expOk lx) : replayExp s = .error (.raise .formatError s) := by
  by_cases hplace : s.hi.dhp ≠ none ∧ lx = 3
  · obtain ⟨hdhp, hlx⟩ := hplace
    have he : s.readable (s.rd.bp + 2) 1 := h.bytes (by omega) (by omega)
    have hnibbles : ¬ (hiNibble (s.inByte (s.rd.bp + 2)) ≤ 1 ∧ loNibble (s.inByte (s.rd.bp + 2)) ≤ 1) :=
      fun hn => hbad ⟨hdhp, hlx, hn⟩
    simp [replayExp, readLength_ok h, State.hierarchical, Option.isSome_iff_ne_none.2 hdhp, hlx, memRead1_ok he, hnibbles]
  · have hplace' : (s.hierarchical && lx == 3) = false := by
      simpa [State.hierarchical, Option.isSome_iff_ne_none] using hplace
    simp [replayExp, readLength_ok h, hplace']

/-- Settles O22: DRI and DNL by their length, EXP by what it asks. -/
theorem driDnlExpReplayed : Obligations.DriDnlExpReplayed := by
  refine ⟨⟨fun s lx hreplay hseg => ?_, fun units => rfl⟩, fun s lx hreplay hseg => ?_⟩
  · have hexec : exec .dri s = runAct replayDri s := runAct_congr (byPhase_replaying hreplay _ _)
    rw [hexec]
    exact ⟨fun hlx => runAct_ok ((replayDri_eq hseg).trans (if_pos hlx)),
      fun hlx => runAct_raise ((replayDri_eq hseg).trans (if_neg hlx))⟩
  · have hdnl : exec .dnl s = runAct replayDnl s := runAct_congr (byPhase_replaying hreplay _ _)
    have hexp : exec .exp s = runAct replayExp s := runAct_congr (byPhase_replaying hreplay _ _)
    rw [hdnl, hexp]
    refine ⟨fun hlx => runAct_ok ((replayDnl_eq hseg).trans (if_pos hlx)),
      fun hlx => runAct_raise ((replayDnl_eq hseg).trans (if_neg hlx)),
      fun hdhp hlx hh hv => runAct_ok (replayExp_ok hseg ⟨hdhp, hlx, hh, hv⟩), fun hbad => ?_⟩
    refine runAct_raise (replayExp_bad hseg ?_)
    rintro ⟨hdhp, hlx, hh, hv⟩
    rcases hbad with hbad | hbad | hbad | hbad
    · exact hdhp hbad
    · exact hbad hlx
    · exact Nat.not_lt.2 hh hbad
    · exact Nat.not_lt.2 hv hbad

/-! ### The pairs of a DAC payload (R222) -/

/-- One pair, as the rule written aside has it. -/
theorem setConditioning_eq (t cs : Byte) (s : State) : setConditioning t cs s =
    (orFormatError (s.tb.condition (t, cs)) >>= fun u => update fun s => { s with tb := u }) s := by
  unfold setConditioning Tables.condition hiNibble loNibble
  by_cases hsel : t.toNat / 16 ≤ 1 ∧ t.toNat % 16 ≤ 3
  · by_cases hcls : t.toNat / 16 = 0
    · by_cases hlu : cs.toNat % 16 < cs.toNat / 16 <;> simp [hsel, hcls, hlu]
    · by_cases hkx : 1 ≤ cs.toNat ∧ cs.toNat ≤ 63 <;> simp [hsel, hcls, hkx]
  · simp [hsel]

/-- The bytes of a list of pairs. -/
def pairBytes (ps : List (Byte × Byte)) : List Byte := ps.flatMap fun p => [p.1, p.2]

theorem length_pairBytes (ps : List (Byte × Byte)) : (pairBytes ps).length = 2 * ps.length := by
  simp [pairBytes, Nat.mul_comm]

/-- The first pair of a list, then the others. -/
theorem dacPairs_cons {s : State} {p : Nat} {q : Byte × Byte} {ps : List (Byte × Byte)} (h : s.holds p (pairBytes (q :: ps))) :
    dacPairs (q :: ps).length p s =
      (orFormatError (s.tb.condition q) >>= fun u => update (fun s => { s with tb := u }) >>= fun _ => dacPairs ps.length (p + 2)) s ∧
    s.holds (p + 2) (pairBytes ps) := by
  have h' : s.holds p (q.1 :: q.2 :: pairBytes ps) := h
  obtain ⟨ht, hfirst, hrest⟩ := h'.cons
  obtain ⟨hcs, hsecond, hrest⟩ := hrest.cons
  refine ⟨?_, hrest⟩
  simp only [List.length_cons, dacPairs, act_bind, memRead1_ok ht, memRead1_ok hcs, hfirst, hsecond, setConditioning_eq]
  cases s.tb.condition q <;> simp

theorem dacPairs_ok : ∀ {ps : List (Byte × Byte)} {s : State} {p : Nat} {t : Tables}, s.holds p (pairBytes ps) →
    s.tb.conditions ps = some t → dacPairs ps.length p s = .ok ((), { s with tb := t })
  | [], _, _, _, _, ht => by
    obtain rfl := Option.some.inj ht
    rfl
  | q :: ps, s, p, t, h, ht => by
    obtain ⟨hcons, hrest⟩ := dacPairs_cons h
    obtain ⟨u, hu, ht⟩ := Option.bind_eq_some_iff.1 ht
    rw [hcons]
    simp only [act_bind, act_orFormatError, hu, act_update]
    exact dacPairs_ok (s := { s with tb := u }) hrest ht

/-- An invalid pair: those before it have set their bytes when it is met. -/
theorem dacPairs_bad : ∀ {ps : List (Byte × Byte)} {s : State} {p : Nat}, s.holds p (pairBytes ps) → s.tb.conditions ps = none →
    ∃ t, dacPairs ps.length p s = .error (.raise .formatError { s with tb := t })
  | [], _, _, _, ht => by cases ht
  | q :: ps, s, p, h, ht => by
    obtain ⟨hcons, hrest⟩ := dacPairs_cons h
    rw [hcons]
    cases hu : s.tb.condition q with
    | none => exact ⟨s.tb, rfl⟩
    | some u =>
      rw [Tables.conditions, hu, Option.bind_some] at ht
      obtain ⟨t, hbad⟩ := dacPairs_bad (s := { s with tb := u }) hrest ht
      exact ⟨t, by simpa only [act_bind, act_orFormatError, act_update] using hbad⟩

theorem replayDac_odd {s : State} {lx : Nat} (h : s.segmentAt lx) (hodd : lx % 2 = 1) : replayDac s = .error (.raise .formatError s) := by
  have hlen : ¬ (lx - 2) % 2 = 0 := by have := h.le; omega
  simp [replayDac, readLength_ok h, hlen]

theorem replayDac_pairs {s : State} {lx : Nat} (h : s.segmentAt lx) {n : Nat} (hlen : lx - 2 = 2 * n) :
    replayDac s = (dacPairs n (s.rd.bp + 2) >>= fun _ => skipSegment lx) s := by
  simp [replayDac, readLength_ok h, hlen]

/-- Settles O23: a payload of odd length; the pairs of an even one by induction. -/
theorem dacSetsTheConditioning : Obligations.DacSetsTheConditioning := by
  intro s lx hreplay hseg
  have hexec : exec .dac s = runAct replayDac s := runAct_congr (byPhase_replaying hreplay _ _)
  rw [hexec]
  refine ⟨fun hodd => runAct_raise (replayDac_odd hseg hodd), fun ps hpay => ?_⟩
  obtain ⟨hlen, hholds⟩ := hseg.holds_payload hpay
  have hpairs := replayDac_pairs hseg (hlen.trans (length_pairBytes ps))
  refine ⟨fun t ht => runAct_ok ?_, fun hnone => ?_⟩
  · rw [hpairs, act_bind, dacPairs_ok hholds ht]
    exact skipSegment_ok lx _
  · obtain ⟨t, hbad⟩ := dacPairs_bad hholds hnone
    exact runAct_raise (t := { s with tb := t }) (by rw [hpairs, act_bind, hbad])

end Sys2Proof.Machine

namespace Sys2Proof.Machine

/-! ### The fields of a frame header (R218) -/

theorem precisionOk_iff {n : BitVec 4} {i : Instr} (h : (n, i) ∈ sofMarkers) (p : Nat) : precisionOk n p = true ↔
    (n = 0 ∧ p = 8) ∨ ((n.toNat % 4 = 1 ∨ n.toNat % 4 = 2) ∧ (p = 8 ∨ p = 12)) ∨ (n.toNat % 4 = 3 ∧ 2 ≤ p ∧ p ≤ 16) := by
  have hcodes : ∀ q ∈ sofMarkers, q.1 = 0#4 ∨ q.1 ≠ 0#4 ∧ (q.1.toNat % 4 = 1 ∨ q.1.toNat % 4 = 2 ∨ q.1.toNat % 4 = 3) := by decide
  have hn : n = 0#4 ∨ n ≠ 0#4 ∧ (n.toNat % 4 = 1 ∨ n.toNat % 4 = 2 ∨ n.toNat % 4 = 3) := hcodes _ h
  unfold precisionOk sofLossless sofProcess
  rcases hn with rfl | ⟨hne, hprocess | hprocess | hprocess⟩
  · simp
  all_goals simp [hne, hprocess]

theorem frameCompsOk_iff (comps : List (Byte × Nat × Nat × Nat)) : frameCompsOk comps = true ↔
    (comps.map (·.1)).Nodup ∧ ∀ c ∈ comps, 1 ≤ c.2.1 ∧ c.2.1 ≤ 4 ∧ 1 ≤ c.2.2.1 ∧ c.2.2.1 ≤ 4 ∧ c.2.2.2 ≤ 3 := by
  simp only [frameCompsOk, Bool.and_eq_true, decide_eq_true_eq, List.all_eq_true, and_assoc]

/-! ### The lines of a frame (R224) -/

theorem resolveLines_header {y : Nat} (h : 0 < y) (s : State) : resolveLines y s = .ok (y, s) := by
  simp [resolveLines, Nat.pos_iff_ne_zero.1 h]

/-- An AUX entry is a DNL behind the scan `r` and before the frame behind the one in progress (log 17). -/
def State.givesLines (s : State) (r : ScanRec) (a : AuxRec) : Prop :=
  a.marker = .dnl ∧ r.sosOff < a.off ∧ ∀ g, s.arena.layout.frames[s.sq.frameIx + 1]? = some g → a.off < g.sofOff

section
variable {s : State} {f : FrameRec} {r : ScanRec} {rest : List ScanRec}

/-- The DNL of a frame is found by a test for the entries that give lines. -/
theorem dnlOf_find (hf : s.frameRec = some f) (hr : f.scans = r :: rest) : ∃ test : AuxRec → Bool,
    (∀ a, test a = true ↔ s.givesLines r a) ∧
    s.arena.layout.dnlOf s.sq.frameIx = (s.arena.layout.aux.find? test).map (·.off) := by
  have hf' : s.arena.layout.frames[s.sq.frameIx]? = some f := hf
  refine ⟨_, fun a => ?_, by simp only [Layout.dnlOf, hf', hr, List.head?_cons]; rfl⟩
  unfold State.givesLines
  cases s.arena.layout.frames[s.sq.frameIx + 1]? <;> simp [and_assoc]

theorem resolveLines_none (hf : s.frameRec = some f) (hr : f.scans = r :: rest)
    (hnone : ∀ a ∈ s.arena.layout.aux, ¬ s.givesLines r a) : resolveLines 0 s = .error (.raise .formatError s) := by
  obtain ⟨test, htest, hdnl⟩ := dnlOf_find hf hr
  have hfind : s.arena.layout.aux.find? test = none := List.find?_eq_none.2 fun a ha ht => hnone a ha ((htest a).1 ht)
  simp [resolveLines, hdnl, hfind]

/-- The first DNL that gives the lines is the one that is read. -/
theorem resolveLines_dnl (hf : s.frameRec = some f) (hr : f.scans = r :: rest) {k : Nat} {a : AuxRec}
    (hk : s.arena.layout.aux[k]? = some a) (ha : s.givesLines r a)
    (hfirst : ∀ j < k, ∀ b, s.arena.layout.aux[j]? = some b → ¬ s.givesLines r b) (hread : s.readable (a.off + 2) 4) :
    resolveLines 0 s = if s.inWord (a.off + 2) = 4 ∧ 1 ≤ s.inWord (a.off + 4) then .ok (s.inWord (a.off + 4), s)
      else .error (.raise .formatError s) := by
  obtain ⟨test, htest, hdnl⟩ := dnlOf_find hf hr
  obtain ⟨hlt, hget⟩ := List.getElem?_eq_some_iff.1 hk
  have hfind : s.arena.layout.aux.find? test = some a := by
    refine List.find?_eq_some_iff_getElem.2 ⟨(htest a).2 ha, k, hlt, hget, fun j hj => ?_⟩
    have hnot := hfirst j hj _ (List.getElem?_eq_getElem (Nat.lt_trans hj hlt))
    rwa [← htest, Bool.not_eq_true, ← Bool.not_eq_true'] at hnot
  have hlx : s.readable (a.off + 2) 2 := hread.le (le_refl _) (by omega)
  have hnl : s.readable (a.off + 4) 2 := hread.le (by omega) (by omega)
  by_cases h4 : s.inWord (a.off + 2) = 4
  · by_cases h1 : 1 ≤ s.inWord (a.off + 4) <;> simp [resolveLines, hdnl, hfind, memRead2_ok hlx, memRead2_ok hnl, h4, h1]
  · simp [resolveLines, hdnl, hfind, memRead2_ok hlx, h4]

end

/-! ### A frame of a hierarchical image, and the transfer function (R451, R471) -/

theorem hierFrameOk_iff (d : Dhp) (acc : List AccPlane) (f : Frame) : hierFrameOk d acc f = true ↔
    (∀ c < f.nf.toNat,
      (∃ e, d.comps.find? (fun e => e.1 == (f.compAt c).id) = some e ∧ e.2.1 = f.hOf c ∧ e.2.2 = f.vOf c) ∧
      ((∃ a ∈ acc, a.id = (f.compAt c).id) ↔ f.ft.getLsbD 2 = true)) ∧
    f.p.toNat = d.p.toNat ∧ f.x.toNat ≤ d.x.toNat ∧ f.y.toNat ≤ d.y.toNat := by
  have hearlier (c : Nat) : (findAcc acc (f.compAt c).id).isSome = f.isDifferential ↔
      ((∃ a ∈ acc, a.id = (f.compAt c).id) ↔ f.ft.getLsbD 2 = true) := by
    rw [Bool.eq_iff_iff]
    simp [findAcc, Frame.isDifferential, sofDifferential]
  simp only [hierFrameOk, Bool.and_eq_true, List.all_eq_true, List.mem_range, beq_iff_eq, decide_eq_true_eq, and_assoc, hearlier]
  refine and_congr_left fun _ => forall₂_congr fun c _ => and_congr_left fun _ => ?_
  cases d.comps.find? fun e => e.1 == (f.compAt c).id <;> simp

/-- The first row of a decision table that matches. -/
def firstMatch (rows : List (Bool × Config.TransferKind)) : Option Config.TransferKind := (rows.find? (·.1)).map (·.2)

theorem firstMatch_cons (b : Bool) (k : Config.TransferKind) (rows : List (Bool × Config.TransferKind)) :
    firstMatch ((b, k) :: rows) = if b then some k else firstMatch rows := by
  cases b <;> rfl

/-- The rows of the reference table (R451). -/
def transferRows (ids : List Byte) (jfif adobe : Bool) (code : Option Byte) : List (Bool × Config.TransferKind) :=
  [(ids.length == 1, .gray), (ids.length == 2, .grayAlpha), (ids.length == 3 && adobe && code == some 0, .rgb),
   (ids == [0x52, 0x47, 0x42], .rgb), (ids == [0x42, 0x47, 0x52], .bgr),
   (ids.length == 3 && (adobe && code == some 1 || jfif || ids == [1, 2, 3] || ids == [0, 1, 2]), .ycbcr),
   (ids.length == 4 && adobe && code == some 2, .ycck), (ids.length == 4 && adobe && code == some 0, .cmyk),
   (ids == [0x52, 0x47, 0x42, 0x41], .rgba), (ids == [0x41, 0x42, 0x47, 0x52], .abgr)]

/-- The table, split by the number of components: a row that names IDs matches no other number of them. -/
theorem transferSelectRef_eq (ids : List Byte) (jfif adobe : Bool) (code : Option Byte) :
    transferSelectRef ids jfif adobe code = firstMatch (transferRows ids jfif adobe code) := by
  have hthree (h : ids.length ≠ 3) (a b c : Byte) : ids ≠ [a, b, c] := fun he => h (congrArg _ he)
  have hfour (h : ids.length ≠ 4) (a b c d : Byte) : ids ≠ [a, b, c, d] := fun he => h (congrArg _ he)
  have hnil : firstMatch [] = none := rfl
  unfold transferSelectRef transferRows
  simp only [firstMatch_cons, hnil]
  by_cases h1 : ids.length = 1
  · simp [h1]
  by_cases h2 : ids.length = 2
  · simp [h2]
  by_cases h3 : ids.length = 3
  · simp [h3, hfour (by omega)]
  by_cases h4 : ids.length = 4
  · simp [h4, hthree h3]
  · simp [h1, h2, h3, h4, hthree h3, hfour h4]

/-- Settles O27: each rule by its own lemma. -/
theorem frameRules : Obligations.FrameRules := by
  refine ⟨fun n i p h => precisionOk_iff h p, frameCompsOk_iff, fun s y hy => resolveLines_header hy s, fun s f r rest hf hr => ?_,
    hierFrameOk_iff, fun params ids jfif adobe code hp => ?_⟩
  · refine ⟨resolveLines_none hf hr, fun k a hk ha hfirst hread => ?_⟩
    have hdnl := resolveLines_dnl hf hr hk ha hfirst hread
    refine ⟨fun h4 hpos => hdnl.trans (if_pos ⟨h4, hpos⟩), fun hbad => hdnl.trans (if_neg ?_)⟩
    rintro ⟨h4, hpos⟩
    exact hbad.elim (fun hne => hne h4) (Nat.pos_iff_ne_zero.1 hpos)
  · rw [transferSelect, hp]
    exact transferSelectRef_eq ids jfif adobe code

end Sys2Proof.Machine

namespace Sys2Proof.Machine

/-! ### The tables of a scan component (R227) -/

theorem isLossless_iff (f : Frame) : f.isLossless = true ↔ f.ft.toNat % 4 = 3 := by
  simp [Frame.isLossless, sofLossless, sofProcess]

theorem readsDc_iff (s : State) : s.readsDc = true ↔
    s.fr.ft.getLsbD 3 = false ∧ (s.fr.ft.toNat % 4 = 2 → s.sc.ss = 0 ∧ s.sc.ah = 0) := by
  by_cases hp : s.fr.ft.toNat % 4 = 2 <;>
    simp [State.readsDc, Frame.isArithmetic, sofArithmetic, sofProgressive, sofProcess, hp]

theorem readsAc_iff (s : State) : s.readsAc = true ↔
    s.fr.ft.getLsbD 3 = false ∧ ¬ s.fr.ft.toNat % 4 = 3 ∧ (s.fr.ft.toNat % 4 = 2 → s.sc.ss ≠ 0) := by
  by_cases hp : s.fr.ft.toNat % 4 = 2 <;>
    simp [State.readsAc, Frame.isArithmetic, sofArithmetic, Frame.isLossless, sofLossless, sofProgressive, sofProcess, hp]

/-- The scan is the first one of a component of a DCT frame: its quantization table is latched. -/
def State.latches (s : State) (c : Nat) : Bool := !s.fr.isLossless && !vget s.fr.seen c false

theorem latches_iff (s : State) (c : Nat) : s.latches c = true ↔ ¬ s.fr.ft.toNat % 4 = 3 ∧ vget s.fr.seen c false = false := by
  rw [State.latches, Bool.and_eq_true, Bool.not_eq_true', Bool.not_eq_true', ← Bool.not_eq_true, isLossless_iff]

/-- A table that the scan needs for the component is not defined (R227). -/
def State.missesTable (s : State) (c : Nat) : Prop :=
  (s.readsDc = true ∧ vget s.arena.dcTables (s.fr.compAt c).td.toNat none = none) ∨
  (s.readsAc = true ∧ vget s.arena.acTables (s.fr.compAt c).ta.toNat none = none) ∨
  (s.latches c = true ∧ vget s.tb.qt (s.fr.compAt c).tq.toNat none = none)

/-- QL after a component's tables are taken (R227). -/
def State.latched (s : State) (c : Nat) : Vector (Option QTable) 4 :=
  if s.latches c then vset s.tb.ql c (vget s.tb.qt (s.fr.compAt c).tq.toNat none) else s.tb.ql

/-- The component is in a scan of the frame from now on (R227, log 24, log 32). -/
def State.claimed (s : State) (c : Nat) : State :=
  { s with fr := { s.fr with seen := vset s.fr.seen c true, pt := vset s.fr.pt c s.sc.al }, tb := { s.tb with ql := s.latched c } }

/-- A check for a table that is needed. -/
theorem defined_iff {α : Type} (needed : Bool) (o : Option α) : (!needed || o.isSome) = true ↔ ¬ (needed = true ∧ o = none) := by
  cases needed <;> cases o <;> simp

/-- With its Huffman tables defined, the quantization table of a component decides. -/
theorem claimComp_huffman {s : State} {c : Nat}
    (hdc : ¬ (s.readsDc = true ∧ vget s.arena.dcTables (s.fr.compAt c).td.toNat none = none))
    (hac : ¬ (s.readsAc = true ∧ vget s.arena.acTables (s.fr.compAt c).ta.toNat none = none)) :
    claimComp c s = if s.latches c = true ∧ vget s.tb.qt (s.fr.compAt c).tq.toNat none = none then .error (.raise .formatError s)
      else .ok ((), s.claimed c) := by
  simp only [claimComp, act_bind, act_get, act_require, (defined_iff _ _).2 hdc, (defined_iff _ _).2 hac, if_true, State.claimed,
    State.latched]
  unfold State.latches
  cases hl : !s.fr.isLossless && !vget s.fr.seen c false
  · simp
  · cases hq : vget s.tb.qt (s.fr.compAt c).tq.toNat none <;> simp

theorem claimComp_missing {s : State} {c : Nat} (h : s.missesTable c) : claimComp c s = .error (.raise .formatError s) := by
  by_cases hdc : s.readsDc = true ∧ vget s.arena.dcTables (s.fr.compAt c).td.toNat none = none
  · simp [claimComp, hdc]
  by_cases hac : s.readsAc = true ∧ vget s.arena.acTables (s.fr.compAt c).ta.toNat none = none
  · simp only [claimComp, act_bind, act_get, act_require, (defined_iff _ _).2 hdc, mt (defined_iff _ _).1 (not_not.2 hac), if_true,
      Bool.false_eq_true, if_false]
  · rw [claimComp_huffman hdc hac, if_pos ((h.resolve_left hdc).resolve_left hac)]

theorem claimComp_ok {s : State} {c : Nat} (h : ¬ s.missesTable c) : claimComp c s = .ok ((), s.claimed c) := by
  obtain ⟨hdc, hrest⟩ := not_or.1 h
  obtain ⟨hac, hq⟩ := not_or.1 hrest
  rw [claimComp_huffman hdc hac, if_neg hq]

/-! ### The reference tables (R225) -/

/-- The reference tables are not needed: no Huffman scan, installed already, or the file has a DHT. -/
theorem referenceSkipped_iff (s : State) :
    (s.fr.isArithmetic || s.tb.defaultHt || s.arena.layout.aux.any (·.marker == .dht)) = true ↔
    s.fr.ft.getLsbD 3 = true ∨ s.tb.defaultHt = true ∨ ∃ a ∈ s.arena.layout.aux, a.marker = .dht := by
  simp [Frame.isArithmetic, sofArithmetic, or_assoc]

theorem installReference_skip {s : State}
    (h : s.fr.ft.getLsbD 3 = true ∨ s.tb.defaultHt = true ∨ ∃ a ∈ s.arena.layout.aux, a.marker = .dht) :
    installReference s = .ok ((), s) := by
  simp only [installReference, act_bind, act_get, act_ite, if_pos ((referenceSkipped_iff s).2 h), act_pure]

theorem orFormatError_some {α : Type} {o : Option α} {a : α} {s t : State} (h : orFormatError o s = .ok (a, t)) : o = some a ∧ t = s := by
  cases o <;> cases h
  exact ⟨rfl, rfl⟩

/-- An allocation that succeeded. -/
theorem alloc_allocated {k : Config.AllocKind} {n : Nat} {s t : State} (h : alloc k s = .ok (n, t)) : t = s.allocated k := by
  simp only [alloc, act_bind, act_get, act_ite, act_raise, act_update, act_pure] at h
  split_ifs at h
  cases h
  rfl

theorem slot_setSlot_same (a : Arena) {cls i : Nat} (hi : i < 4) (t : HuffTable) : (a.setSlot cls i t).slot cls i = some t := by
  by_cases hcls : cls = 0 <;> simp [Arena.setSlot, Arena.slot, hcls, vget_vset_same hi]

theorem vget_vset_ne {α : Type} {n : Nat} (v : Vector α n) {i j : Nat} (h : i ≠ j) (x d : α) : vget (vset v i x) j d = vget v j d := by
  simp [vget, vset, Vector.getElem?_setIfInBounds_ne h]

theorem slot_setSlot_other (a : Arena) {cls i cls' i' : Nat} (h : ¬ (cls = 0 ↔ cls' = 0) ∨ i ≠ i') (t : HuffTable) :
    (a.setSlot cls i t).slot cls' i' = a.slot cls' i' := by
  rcases h with h | h
  · by_cases hcls : cls = 0
    · have hcls' : cls' ≠ 0 := by tauto
      simp [Arena.setSlot, Arena.slot, hcls, hcls']
    · have hcls' : cls' = 0 := by tauto
      simp [Arena.setSlot, Arena.slot, hcls, hcls']
  · by_cases hcls : cls = 0 <;> by_cases hcls' : cls' = 0 <;> simp [Arena.setSlot, Arena.slot, hcls, hcls', vget_vset_ne _ h]

/-- Only Huffman tables, and the room they take, differ. -/
def Retabled (s t : State) : Prop :=
  t = { s with arena := { s.arena with used := t.arena.used, dcTables := t.arena.dcTables, acTables := t.arena.acTables } }

theorem Retabled.trans {s t u : State} (hst : Retabled s t) (htu : Retabled t u) : Retabled s u := by
  unfold Retabled at *
  rw [htu, hst]

/-- A table installed: its codes are those of its lengths, and every other slot is kept (R220, R290). -/
theorem installTable_slot {s t : State} {cls i : Nat} {counts : List Nat} {vals : List Byte}
    (h : installTable cls i counts vals s = .ok ((), t)) : Retabled s t ∧
      (i < 4 → (t.arena.slot cls i).map (·.codes) = buildTrie counts vals) ∧
      ∀ cls' i', ¬ (cls = 0 ↔ cls' = 0) ∨ i ≠ i' → t.arena.slot cls' i' = s.arena.slot cls' i' := by
  obtain ⟨codes, u, hcodes, h⟩ := act_bind_ok h
  obtain ⟨size, v, halloc, h⟩ := act_bind_ok h
  obtain ⟨htrie, rfl⟩ := orFormatError_some hcodes
  obtain rfl := alloc_allocated halloc
  simp only [act_bind, act_get, release, act_update, State.allocated_arena, Arena.setSlot_used] at h
  cases h
  refine ⟨?_, fun hi => ?_, fun cls' i' hne => slot_setSlot_other _ hne _⟩
  · unfold Retabled Arena.setSlot
    split <;> rfl
  · rw [htrie]
    exact congrArg (Option.map (·.codes)) (slot_setSlot_same _ hi _)

/-- The reference tables (R225): class, slot, codes. -/
def refTables : List (Nat × Nat × Option (List Code)) :=
  [(0, 0, buildTrie refDcLumaBits refDcLumaVals), (1, 0, buildTrie refAcLumaBits refAcLumaVals),
   (0, 1, buildTrie refDcChromaBits refDcChromaVals), (1, 1, buildTrie refAcChromaBits refAcChromaVals)]

/-- Four tables installed one after another, and the flag. -/
theorem installReference_slots {s t : State} (h : installReference s = .ok ((), t))
    (hskip : ¬ (s.fr.ft.getLsbD 3 = true ∨ s.tb.defaultHt = true ∨ ∃ a ∈ s.arena.layout.aux, a.marker = .dht)) :
    t = { s with arena := { s.arena with used := t.arena.used, dcTables := t.arena.dcTables, acTables := t.arena.acTables },
                 tb := { s.tb with defaultHt := true } } ∧
    (∀ cls i codes, (cls, i, codes) ∈ refTables → (t.arena.slot cls i).map (·.codes) = codes) ∧
    ∀ cls i, 2 ≤ i → t.arena.slot cls i = s.arena.slot cls i := by
  simp only [installReference, act_bind get, act_get, if_neg (mt (referenceSkipped_iff s).1 hskip)] at h
  obtain ⟨⟨⟩, s1, h1, h⟩ := act_bind_ok h
  obtain ⟨⟨⟩, s2, h2, h⟩ := act_bind_ok h
  obtain ⟨⟨⟩, s3, h3, h⟩ := act_bind_ok h
  obtain ⟨⟨⟩, s4, h4, h⟩ := act_bind_ok h
  cases h
  obtain ⟨htable1, hslot1, hother1⟩ := installTable_slot h1
  obtain ⟨htable2, hslot2, hother2⟩ := installTable_slot h2
  obtain ⟨htable3, hslot3, hother3⟩ := installTable_slot h3
  obtain ⟨htable4, hslot4, hother4⟩ := installTable_slot h4
  refine ⟨?_, fun cls i codes hmem => ?_, fun cls i hi => ?_⟩
  · exact congrArg (fun u : State => { u with tb := { u.tb with defaultHt := true } })
      (((htable1.trans htable2).trans htable3).trans htable4)
  · simp only [refTables, List.mem_cons, List.not_mem_nil, or_false, Prod.mk.injEq] at hmem
    change (s4.arena.slot cls i).map (·.codes) = codes
    rcases hmem with ⟨rfl, rfl, hcodes⟩ | ⟨rfl, rfl, hcodes⟩ | ⟨rfl, rfl, hcodes⟩ | ⟨rfl, rfl, hcodes⟩ <;> rw [hcodes]
    · rw [hother4 _ _ (by decide), hother3 _ _ (by decide), hother2 _ _ (by decide), hslot1 (by decide)]
    · rw [hother4 _ _ (by decide), hother3 _ _ (by decide), hslot2 (by decide)]
    · rw [hother4 _ _ (by decide), hslot3 (by decide)]
    · exact hslot4 (by decide)
  · change s4.arena.slot cls i = _
    rw [hother4 _ _ (.inr (by omega)), hother3 _ _ (.inr (by omega)), hother2 _ _ (.inr (by omega)), hother1 _ _ (.inr (by omega))]

/-! ### The units of a scan (R250, R251, R254) -/

/-- Unit rows of the current scan. -/
def State.unitRows (s : State) : Nat := if s.sc.interleaved then s.fr.mcuRows else s.fr.soloRows (s.sc.compOf 0)

theorem unitCount_eq (s : State) : s.unitCount = s.unitCols * s.unitRows := by
  unfold State.unitCount State.unitCols State.unitRows
  split <;> rfl

theorem interleaved_iff (sc : Scan) : sc.interleaved = true ↔ 1 < sc.ns.toNat := decide_eq_true_iff

theorem unitCols_eq (s : State) : s.unitCols =
    if 1 < s.sc.ns.toNat then ceilDiv s.fr.x.toNat (if s.fr.ft.toNat % 4 = 3 then s.fr.hmax.toNat else 8 * s.fr.hmax.toNat)
    else if s.fr.ft.toNat % 4 = 3 then s.fr.xc (s.sc.compOf 0) else ceilDiv (s.fr.xc (s.sc.compOf 0)) 8 := by
  simp only [State.unitCols, Frame.mcuCols, Frame.soloCols, interleaved_iff, isLossless_iff]

theorem unitRows_eq (s : State) : s.unitRows =
    if 1 < s.sc.ns.toNat then ceilDiv s.fr.y.toNat (if s.fr.ft.toNat % 4 = 3 then s.fr.vmax.toNat else 8 * s.fr.vmax.toNat)
    else if s.fr.ft.toNat % 4 = 3 then s.fr.yc (s.sc.compOf 0) else ceilDiv (s.fr.yc (s.sc.compOf 0)) 8 := by
  simp only [State.unitRows, Frame.mcuRows, Frame.soloRows, interleaved_iff, isLossless_iff]

theorem mcuEntries_eq (s : State) : s.mcuEntries =
    if 1 < s.sc.ns.toNat then (List.range s.sc.ns.toNat).flatMap fun j =>
      mcuEntriesOf j (s.fr.hOf (s.sc.compOf j)) (s.fr.vOf (s.sc.compOf j))
    else [⟨0, 0, 0⟩] := by
  simp only [State.mcuEntries, interleaved_iff]

theorem restartRowsOk_iff (s : State) : s.restartRowsOk = true ↔
    (s.fr.ft.toNat % 4 = 3 → s.tb.ri.toNat = 0 ∨ s.tb.ri.toNat % s.unitCols = 0) := by
  have hri : s.tb.ri = 0 ↔ s.tb.ri.toNat = 0 := BitVec.toNat_eq
  rw [← isLossless_iff, ← hri]
  unfold State.restartRowsOk
  cases s.fr.isLossless <;> simp

/-! ### The start of a scan (R227, R258, R407) -/

/-- SOS behind its tables: the restart rows, the sequencing registers, the number of intervals. -/
def startScan : Act Unit := do
  let s ← get
  require s.restartRowsOk
  update State.openScan
  let s ← get
  let sr ← orUndefined .layout s.scanRec
  require (sr.intervals.length == s.sc.ni)

/-- A header with scan parameters that its process admits, covered and with its tables, starts its scan (R219, R255, R256, R225, R227). -/
theorem parseSos_claimed {s u v w z : State} (hparse : parseScanHeader s = .ok ((), u))
    (hparams : scanParamsOk u.fr.ft u.fr.p.toNat u.sc.ns.toNat u.sc.ss.toNat u.sc.se.toNat u.sc.ah.toNat u.sc.al.toNat = true)
    (hcover : forComps coverComp u.sc.comps u = .ok ((), v)) (href : installReference v = .ok ((), w))
    (hclaim : forComps claimComp u.sc.comps w = .ok ((), z)) : parseSos s = startScan z := by
  simp only [parseSos, startScan, act_bind, hparse, act_get, act_require, hparams, if_true, hcover, href, hclaim]

theorem startScan_badRows {s : State} (h : ¬ s.restartRowsOk = true) : startScan s = .error (.raise .formatError s) := by
  simp [startScan, h]

theorem startScan_eq {s : State} {r : ScanRec} (h : s.restartRowsOk = true) (hr : s.scanRec = some r) :
    startScan s = if r.intervals.length = s.openScan.sc.ni then .ok ((), s.openScan) else .error (.raise .formatError s.openScan) := by
  have hr' : s.openScan.scanRec = some r := hr
  simp [startScan, h, hr']

/-- Settles O30: a component's tables as its checks ask for them, the reference tables slot by slot, then the units of the scan. -/
theorem scanStart : Obligations.ScanStart := by
  refine ⟨fun s c => ?_, fun s => ?_, fun s u v w z hreplay hparse hparams hcover href hclaim => ?_⟩
  · intro k huffman progressive lossless first missing
    have hmissing : missing ↔ s.missesTable c := by
      simp only [missing, first, huffman, progressive, lossless, k, State.missesTable, readsDc_iff, readsAc_iff, latches_iff, and_assoc]
    have hfirst : first ↔ s.latches c = true := (latches_iff s c).symm
    refine ⟨fun h => claimComp_missing (hmissing.1 h), fun h => ⟨s.latched c, claimComp_ok (mt hmissing.2 h), fun hnot => ?_, fun hf => ?_⟩⟩
    · exact if_neg (mt hfirst.2 hnot)
    · exact if_pos (hfirst.1 hf)
  · intro skip
    exact ⟨installReference_skip, fun t hskip ht => installReference_slots ht hskip⟩
  · have hexec : exec .sos s = runAct startScan z := by
      change runAct (byPhase scanSos parseSos) s = _
      simp only [runAct, byPhase_replaying hreplay, parseSos_claimed hparse hparams hcover href hclaim]
    intro lossless c xc yc cols rows rowsOk units ni mcud t
    have hrows : rowsOk ↔ z.restartRowsOk = true := by rw [restartRowsOk_iff, unitCols_eq]; rfl
    have hopen : z.openScan = t := by
      have hunits : z.unitCount = units := by rw [unitCount_eq, unitCols_eq, unitRows_eq]; rfl
      have hmcud : z.mcuEntries = mcud := mcuEntries_eq z
      rw [State.openScan, hunits, hmcud]
      rfl
    rw [hexec]
    refine ⟨fun h => ?_, fun r h hr => ⟨fun hn => ?_, fun hn => ?_⟩⟩
    · exact runAct_raise (startScan_badRows (mt hrows.2 h))
    · rw [← hopen]
      exact runAct_ok ((startScan_eq (hrows.1 h) hr).trans (if_pos (by rwa [hopen])))
    · rw [← hopen]
      exact runAct_raise ((startScan_eq (hrows.1 h) hr).trans (if_neg (by rwa [hopen])))

end Sys2Proof.Machine

namespace Sys2Proof.Machine

/-! ### The coverage record (R256) -/

theorem mem_band {ss se k : Nat} : k ∈ band ss se ↔ ss ≤ k ∧ k ≤ se := by
  simp only [band, List.mem_map, List.mem_range]
  exact ⟨fun ⟨i, hi, hk⟩ => by omega, fun ⟨hlo, hhi⟩ => ⟨k - ss, by omega, by omega⟩⟩

/-- An entry of an array after one value was stored at each of the listed indices. -/
theorem vget_foldl_vset {α : Type} {n : Nat} (x d : α) {k : Nat} (hk : k < n) : ∀ (ks : List Nat) (v : Vector α n),
    vget (ks.foldl (fun v i => vset v i x) v) k d = if k ∈ ks then x else vget v k d
  | [], v => by simp
  | i :: ks, v => by
    rw [List.foldl_cons, vget_foldl_vset x d hk ks]
    by_cases hki : k = i
    · subst hki
      simp [vget_vset_same hk]
    · simp [hki, vget_vset_ne v (Ne.symm hki)]

/-- A scan sets the band of its component to bit AL and keeps every other entry of the record (R256). -/
theorem coverAt_coverSet (cover : Vector (Vector (Option Nat) 64) 4) {c : Nat} (hc : c < 4) (ss se al c' : Nat) {k : Nat} (hk : k < 64) :
    coverAt (coverSet cover c ss se al) c' k = if c' = c ∧ ss ≤ k ∧ k ≤ se then some al else coverAt cover c' k := by
  by_cases hcc : c' = c
  · subst hcc
    simp only [coverAt, coverSet, vget_vset_same hc, vget_foldl_vset _ _ hk, mem_band, true_and]
  · simp only [coverAt, coverSet, vget_vset_ne _ (Ne.symm hcc), hcc, false_and, if_false]

theorem coverOk_iff (cover : Vector (Vector (Option Nat) 64) 4) (c ss ah k : Nat) : coverOk cover c ss ah k = true ↔
    (if ah = 0 then coverAt cover c k = none else coverAt cover c k = some ah) ∧ (0 < ss → coverAt cover c 0 ≠ none) := by
  by_cases hah : ah = 0 <;> by_cases hss : ss = 0 <;> simp [coverOk, hah, hss, Nat.pos_iff_ne_zero]

theorem bandCovered_iff (cover : Vector (Vector (Option Nat) 64) 4) (c ss se ah : Nat) :
    (band ss se).all (coverOk cover c ss ah) = true ↔ ∀ k, ss ≤ k → k ≤ se →
      (if ah = 0 then coverAt cover c k = none else coverAt cover c k = some ah) ∧ (0 < ss → coverAt cover c 0 ≠ none) := by
  simp only [List.all_eq_true, mem_band, coverOk_iff, and_imp]

theorem coverComp_dct {s : State} (c : Nat) (hl : s.fr.isLossless = false) : coverComp c s =
    if (band s.sc.ss.toNat s.sc.se.toNat).all (coverOk s.tb.cover c s.sc.ss.toNat s.sc.ah.toNat) = true
    then .ok ((), { s with tb := { s.tb with cover := coverSet s.tb.cover c s.sc.ss.toNat s.sc.se.toNat s.sc.al.toNat } })
    else .error (.raise .formatError s) := by
  simp only [coverComp, act_bind, act_get, act_ite, hl, Bool.false_eq_true, if_false, act_require]
  split_ifs <;> rfl

theorem coverComp_lossless {s : State} (c : Nat) (hl : s.fr.isLossless = true) :
    coverComp c s = if vget s.fr.seen c false = true then .error (.raise .formatError s) else .ok ((), s) := by
  cases hseen : vget s.fr.seen c false <;> simp [coverComp, hl, hseen]

/-- Settles O31: the check of a DCT scan entry by entry of its band, then the record it stores; a lossless one by its flag. -/
theorem coverageRule : Obligations.CoverageRule := by
  intro s c hc ss se ah old fits
  have hfits : fits ↔ (band ss se).all (coverOk s.tb.cover c ss ah) = true := (bandCovered_iff _ c ss se ah).symm
  refine ⟨fun hl hf => ?_, fun hl hf => ?_, fun hl hseen => ?_, fun hl hseen => ?_⟩
  · exact ⟨_, (coverComp_dct c hl).trans (if_pos (hfits.1 hf)), fun c' k _ hk => coverAt_coverSet _ hc _ _ _ c' hk⟩
  · exact (coverComp_dct c hl).trans (if_neg (mt hfits.2 hf))
  · exact (coverComp_lossless c hl).trans (if_neg (ne_true_of_eq_false hseen))
  · exact (coverComp_lossless c hl).trans (if_pos hseen)

/-! ### The units of an interval (R258) -/

/-- The scan at interval `i`. -/
def State.atInterval (s : State) (i : Nat) : State := { s with sc := { s.sc with intv := i } }

theorem firstUnit_atInterval (s : State) (i : Nat) : (s.atInterval i).firstUnit = i * s.tb.ri.toNat := rfl

theorem endUnit_atInterval (s : State) (i : Nat) : (s.atInterval i).endUnit =
    if s.tb.ri.toNat = 0 then s.sc.nunits else min ((i + 1) * s.tb.ri.toNat) s.sc.nunits :=
  ite_congr (propext BitVec.toNat_eq) (fun _ => rfl) fun _ => rfl

/-- The interval of a unit is one of the scan's NI. -/
theorem div_lt_intervalCount {ri nunits u : Nat} (hu : u < nunits) : u / ri < intervalCount ri nunits := by
  rcases Nat.eq_zero_or_pos ri with rfl | hri
  · simp [intervalCount]
  · rw [intervalCount, if_neg hri.ne', ← Nat.not_le, ceilDiv_le_iff hri, Nat.not_le]
    exact (Nat.div_mul_le_self u ri).trans_lt hu

/-- Unit `u` is in interval `u / RI` and in no other; where RI = 0, that quotient is the only interval, 0. -/
theorem unit_atInterval_iff {s : State} {u i : Nat} (hu : u < s.sc.nunits) (hi : i < intervalCount s.tb.ri.toNat s.sc.nunits) :
    (s.atInterval i).firstUnit ≤ u ∧ u < (s.atInterval i).endUnit ↔ i = u / s.tb.ri.toNat := by
  rw [firstUnit_atInterval, endUnit_atInterval]
  rcases Nat.eq_zero_or_pos s.tb.ri.toNat with hri | hri
  · rw [hri, intervalCount, if_pos rfl, Nat.lt_one_iff] at hi
    simp [hri, hi, hu]
  · rw [if_neg hri.ne', lt_min_iff, ← Nat.le_div_iff_mul_le hri, ← Nat.div_lt_iff_lt_mul hri]
    omega

/-- Settles O32: the interval of a unit is its quotient by RI. -/
theorem intervalsPartitionTheUnits : Obligations.IntervalsPartitionTheUnits := by
  intro s u hu ri at'
  refine ⟨firstUnit_atInterval s, endUnit_atInterval s, ?_, fun i j hi hj hilo hihi hjlo hjhi => ?_⟩
  · have hlt : u / ri < intervalCount ri s.sc.nunits := div_lt_intervalCount hu
    exact ⟨u / ri, hlt, (unit_atInterval_iff hu hlt).2 rfl⟩
  · exact ((unit_atInterval_iff hu hi).1 ⟨hilo, hihi⟩).trans ((unit_atInterval_iff hu hj).1 ⟨hjlo, hjhi⟩).symm

end Sys2Proof.Machine

namespace Sys2Proof.Machine

/-! ### Dequantization and the inverse transform (R440, R441, R444) -/

theorem dequantList_ok {s : State} : ∀ {ps : List (Int × BitVec 16)}, (∀ p ∈ ps, inInt32 (p.1 * p.2.toNat) = true) →
    dequantList ps s = .ok (ps.map fun p => p.1 * p.2.toNat, s)
  | [], _ => rfl
  | p :: ps, h => by
    simp only [dequantList, act_bind, act_checked32 (h p List.mem_cons_self),
      dequantList_ok fun r hr => h r (List.mem_cons_of_mem p hr), act_pure, List.map_cons]

/-- The products of a block's coefficients with the table's entries (R441). -/
def dequantized (b : Block) (q : QTable) : Block := Vector.ofFn fun k => vget b k.val 0 * (vget q k.val 0).toNat

/-- Products in the signed 32-bit range are the dequantized block (R441). -/
theorem dequant_ok {b : Block} {q : QTable} {s : State} (h : ∀ k < 64, inInt32 (vget b k 0 * (vget q k 0).toNat) = true) :
    dequant b q s = .ok (dequantized b q, s) := by
  have hpairs : ∀ p ∈ b.toList.zip q.toList, inInt32 (p.1 * p.2.toNat) = true := by
    intro p hp
    obtain ⟨k, hk, rfl⟩ := List.getElem_of_mem hp
    have hk64 : k < 64 := by simpa using hk
    simpa [vget, hk64] using h k hk64
  have hentries : (Vector.ofFn fun k : Fin 64 => lget ((b.toList.zip q.toList).map fun p => p.1 * (p.2.toNat : Int)) k.val 0) =
      dequantized b q := by
    ext k hk
    simp [dequantized, lget, vget]
  simp only [dequant, act_bind, dequantList_ok hpairs, act_pure, hentries]

/-- Block after block is dequantized and transformed (R440, R443). -/
theorem transformBlocks_ok {s : State} (p : Nat) (differential : Bool) (q : QTable) : ∀ {blocks : List Block},
    (∀ b ∈ blocks, ∀ k < 64, inInt32 (vget b k 0 * (vget q k 0).toNat) = true) →
    transformBlocks p differential q blocks s = .ok (blocks.map fun b => idct s.params p differential (dequantized b q), s)
  | [], _ => rfl
  | b :: blocks, h => by
    simp only [transformBlocks, act_bind, dequant_ok (h b List.mem_cons_self), act_get,
      transformBlocks_ok p differential q fun b' hb' => h b' (List.mem_cons_of_mem b hb'), act_pure, List.map_cons]

/-! ### Reconstructed samples (R409, R440, R444) -/

theorem Samples.at_build {w h x y : Nat} (f : Nat → Nat → Int) (hx : x < w) (hy : y < h) : (Samples.build w h f).at x y = f x y := by
  have hrow : lget ((List.range w).map fun x => f x y) x 0 = f x y := by simp [lget, hx]
  rw [← hrow, ← lget_flatMap_range (f := fun y => (List.range w).map fun x => f x y) (fun _ => by simp) 0 hy hx]
  exact if_pos hx

/-- Sample `(x, y)` of block `(bx, byy)` stands at column `8 bx + x` and row `8 byy + y` (R444). -/
theorem at_placeBlocks {bw bh bx byy x y : Nat} {blocks : List Block} {b : Block} (hbx : bx < bw) (hby : byy < bh) (hx : x < 8)
    (hy : y < 8) (hb : blocks[byy * bw + bx]? = some b) :
    (placeBlocks bw bh blocks).at (8 * bx + x) (8 * byy + y) = vget b (8 * y + x) 0 := by
  have hcol : (8 * bx + x) / 8 = bx ∧ (8 * bx + x) % 8 = x := by omega
  have hrow : (8 * byy + y) / 8 = byy ∧ (8 * byy + y) % 8 = y := by omega
  rw [placeBlocks, Samples.at_build _ (by omega) (by omega), hcol.1, hcol.2, hrow.1, hrow.2, lget, hb, Option.getD_some,
    Nat.mul_comm y 8]

/-- A lossless sample is shifted by the point transform of its component (R409). -/
theorem at_losslessPlane {s : State} {c sw sh x y : Nat} {cells : List (BitVec 16)} {v : BitVec 16}
    (hp : s.plane c = some (.lossless sw sh cells)) (hx : x < sw) (hy : y < sh) (hv : s.sample? ⟨c, x, y⟩ = some v) (pt : Nat) :
    (losslessPlane sw sh cells pt).at x y = v.toNat * 2 ^ pt := by
  have hcell : cells[(y + 1) * (sw + 1) + (x + 1)]? = some v := by
    rw [State.sample?, hp] at hv
    exact (if_pos ⟨hx, hy⟩).symm.trans hv
  rw [losslessPlane, Samples.at_build _ hx hy, lget, hcell, Option.getD_some]

/-- RS[c] stored behind its allocation (R440, log 37). -/
def State.reconstructed (s : State) (c w h : Nat) (rs : Samples) : State :=
  let t := s.allocated (.samples w h)
  { t with arena := { t.arena with rs := vset t.arena.rs c (some rs) } }

theorem reconstructComp_dct {s : State} {c bw bh : Nat} {blocks : List Block} {q : QTable}
    (hp : s.plane c = some (.dct bw bh blocks)) (hq : vget s.tb.ql c none = some q) (hroom : s.roomFor (.samples (8 * bw) (8 * bh)))
    (hrange : ∀ b ∈ blocks, ∀ k < 64, inInt32 (vget b k 0 * (vget q k 0).toNat) = true) :
    reconstructComp c s = .ok ((), s.reconstructed c (8 * bw) (8 * bh) (placeBlocks bw bh
      (blocks.map fun b => idct s.params s.fr.p.toNat (s.fr.ft.getLsbD 2) (dequantized b q)))) := by
  simp only [reconstructComp, act_bind, act_get, hp, act_orUndefined, Plane.size, alloc_ok hroom, hq, transformBlocks_ok _ _ q hrange,
    act_pure, act_update]
  rfl

theorem reconstructComp_lossless {s : State} {c sw sh : Nat} {cells : List (BitVec 16)}
    (hp : s.plane c = some (.lossless sw sh cells)) (hroom : s.roomFor (.samples sw sh)) :
    reconstructComp c s = .ok ((), s.reconstructed c sw sh (losslessPlane sw sh cells (vget s.fr.pt c 0).toNat)) := by
  simp only [reconstructComp, act_bind, act_get, hp, act_orUndefined, Plane.size, alloc_ok hroom, act_pure, act_update]
  rfl

/-! ### The step at the end of a frame (R257, R584) -/

theorem coverComplete_iff (s : State) : s.coverComplete = true ↔ ∀ c < s.fr.nf.toNat,
    if s.fr.ft.toNat % 4 = 3 then vget s.fr.seen c false = true else ∀ k < 64, coverAt s.tb.cover c k = some 0 := by
  simp only [State.coverComplete, List.all_eq_true, List.mem_range, ← isLossless_iff]
  refine forall₂_congr fun c _ => ?_
  cases s.fr.isLossless <;> simp

/-- What comes after a frame: the next one, or the output (R584). -/
def State.pastFrame (s : State) : State :=
  { s with sq := { s.sq with
    frameIx := s.sq.frameIx + 1, scanIx := 0
    phase := if s.sq.frameIx + 1 < s.arena.layout.frames.length then .replaySof else .output } }

theorem step_frameEnd {s : State} (hs : s.script = []) (hp : s.sq.phase = .frameEnd) (hu : s.undisturbed) :
    step s = runAct frameEndAct s := by
  have hfetch : fetch s = .ok (none, s) := by simp [fetch, hp]
  rw [step_unfetched hs hu hfetch, hp]
  rfl

theorem frameEndAct_uncovered {s : State} (h : ¬ s.coverComplete = true) : frameEndAct s = .error (.raise .formatError s) := by
  simp only [frameEndAct, act_bind, act_get, act_require, if_neg h]

/-- Behind the reconstruction of a frame: accumulation in a hierarchical image, then what comes next (R470, R584). -/
def accumulateFrame (hierarchical : Bool) (comps : List Nat) : Act Unit :=
  if hierarchical then forComps accumulateComp comps >>= fun _ => update State.pastFrame else update State.pastFrame

theorem frameEndAct_covered {s : State} (h : s.coverComplete = true) : frameEndAct s =
    (forComps reconstructComp (List.range s.fr.nf.toNat) >>= fun _ =>
      accumulateFrame s.hi.dhp.isSome (List.range s.fr.nf.toNat)) s := by
  simp only [frameEndAct, act_bind, act_get, act_require, if_pos h]
  rfl

/-- Settles O49: the frame's end stage by stage, then the samples of a component by the kind of its plane. -/
theorem frameEnd : Obligations.FrameEnd := by
  refine ⟨fun s hs hp hu => ?_, fun s c _ => ?_⟩
  · intro comps covered onward
    have hcovered : covered ↔ s.coverComplete = true := (coverComplete_iff s).symm
    rw [step_frameEnd hs hp hu]
    refine ⟨fun h => runAct_raise (frameEndAct_uncovered (mt hcovered.2 h)), fun h => ?_⟩
    have hend := frameEndAct_covered (hcovered.1 h)
    refine ⟨fun e u hraise => ?_, fun t ht => ?_⟩
    · exact runAct_raise (by rw [hend, act_bind, hraise])
    · have haccum : frameEndAct s = accumulateFrame s.hi.dhp.isSome comps t := by rw [hend, act_bind, ht]
      refine ⟨fun hd => ?_, fun hd => ?_⟩
      · exact runAct_ok (by rw [haccum, hd]; rfl)
      · have hdhp : s.hi.dhp.isSome = true := Option.isSome_iff_ne_none.2 hd
        rw [accumulateFrame, if_pos hdhp, act_bind] at haccum
        exact ⟨fun e u hraise => runAct_raise (by rw [haccum, hraise]), fun u hok => runAct_ok (by rw [haccum, hok]; rfl)⟩
  · intro held
    refine ⟨fun bw bh blocks q hp _ hq hroom hrange => ?_, fun sw sh cells hp _ hroom => ?_⟩
    · refine ⟨_, reconstructComp_dct hp hq hroom hrange, rfl, rfl, fun bx hbx byy hby x hx y hy b hb => ?_⟩
      exact at_placeBlocks hbx hby hx hy (by rw [List.getElem?_map, hb]; rfl)
    · exact ⟨_, reconstructComp_lossless hp hroom, rfl, rfl, fun x hx y hy v hv => at_losslessPlane hp hx hy hv _⟩

end Sys2Proof.Machine

namespace Sys2Proof.Machine

/-! ### Extend and the magnitude categories (R155, R294) -/

/-- `x` is a value of the magnitude category `s` (R155). -/
def InCategory (s : Nat) (x : Int) : Prop :=
  (-(2 ^ s - 1 : Int) ≤ x ∧ x ≤ -(2 : Int) ^ (s - 1)) ∨ ((2 : Int) ^ (s - 1) ≤ x ∧ x ≤ 2 ^ s - 1)

theorem extend_zero (v : Nat) : extend v 0 = 0 := rfl

theorem extraBits_zero : extraBits 0 0 = 0 := rfl

theorem extend_succ (v n : Nat) : extend v (n + 1) = if v < 2 ^ n then (v : Int) - 2 ^ (n + 1) + 1 else v := rfl

theorem extraBits_eq (x : Int) (s : Nat) : extraBits x s = if 0 ≤ x then x.toNat else (x + 2 ^ s - 1).toNat := rfl

/-- The extra bits below half of their range stand for the negative values of the category. -/
theorem extend_inCategory {v n : Nat} (hv : v < 2 ^ (n + 1)) :
    InCategory (n + 1) (extend v (n + 1)) ∧ extraBits (extend v (n + 1)) (n + 1) = v := by
  have hpow : (2 : Int) ^ (n + 1) = 2 * 2 ^ n := by rw [pow_succ, mul_comm]
  zify at hv
  rw [extraBits_eq, extend_succ, InCategory, Nat.add_sub_cancel]
  by_cases hlow : v < 2 ^ n
  · rw [if_pos hlow]
    zify at hlow
    exact ⟨.inl (by omega), by rw [if_neg (by omega)]; omega⟩
  · rw [if_neg hlow]
    zify at hlow
    exact ⟨.inr (by omega), by rw [if_pos (by omega)]; omega⟩

/-- The extra bits of a value of the category give it back. -/
theorem extraBits_ofCategory {x : Int} {n : Nat} (hx : InCategory (n + 1) x) :
    extraBits x (n + 1) < 2 ^ (n + 1) ∧ extend (extraBits x (n + 1)) (n + 1) = x := by
  have hpow : (2 : Int) ^ (n + 1) = 2 * 2 ^ n := by rw [pow_succ, mul_comm]
  have hpos : (0 : Int) < 2 ^ n := by positivity
  rw [InCategory, Nat.add_sub_cancel] at hx
  rw [extend_succ, extraBits_eq]
  zify
  rcases hx with ⟨hlo, hhi⟩ | ⟨hlo, hhi⟩
  · rw [if_neg (by omega), if_pos (by omega)]
    omega
  · rw [if_pos (by omega), if_neg (by omega)]
    omega

/-- Settles O34: the two halves of a category, from the bits to the value and back. -/
theorem extendIsTheCategoryCode : Obligations.ExtendIsTheCategoryCode := by
  refine ⟨fun v s => rfl, fun s hs _ => ?_⟩
  obtain ⟨n, rfl⟩ := Nat.exists_eq_add_of_le' hs
  exact ⟨fun v hv => extend_inCategory hv, fun x hx => extraBits_ofCategory hx⟩

/-! ### Reading bits and bytes (R291, R343) -/

theorem nextBit_buffered {s : State} (h : s.rd.bitCnt ≠ 0) : nextBit s =
    .ok (s.rd.bitBuf.getLsbD (s.rd.bitCnt - 1), { s with rd := { s.rd with bitCnt := s.rd.bitCnt - 1 } }) := by
  simp only [nextBit, act_bind, act_get, if_neg h, act_update, act_pure]

theorem nextBit_usedUp {s : State} (h : s.rd.bitCnt = 0) (hend : s.rd.segEnd ≤ s.rd.bp) :
    nextBit s = .error (.raise .formatError s) := by
  simp only [nextBit, act_bind, act_get, if_pos h, ge_iff_le, if_pos hend, act_raise]

theorem nextBit_newByte {s : State} (h : s.rd.bitCnt = 0) (hin : s.rd.bp < s.rd.segEnd) (hread : s.readable s.rd.bp 1) :
    let b := s.inByte s.rd.bp
    nextBit s = .ok (b.getLsbD 7, { s with rd := { s.rd with
      bp := s.rd.bp + (if b = 0xFF then 2 else 1), bitBuf := b, bitCnt := 7 } }) := by
  simp only [nextBit, act_bind, act_get, if_pos h, ge_iff_le, if_neg (Nat.not_le.2 hin), memRead1_ok hread, act_update, act_pure]

theorem byteIn_past {s : State} (hend : s.rd.segEnd ≤ s.rd.bp) :
    byteIn s = .ok (0, { s with qm := { s.qm with zfill := true } }) := by
  simp only [byteIn, act_bind, act_get, ge_iff_le, if_pos hend, act_update, act_pure]

theorem byteIn_byte {s : State} (hin : s.rd.bp < s.rd.segEnd) (hread : s.readable s.rd.bp 1) :
    let b := s.inByte s.rd.bp
    byteIn s = .ok (b, { s with rd := { s.rd with bp := s.rd.bp + (if b = 0xFF then 2 else 1) } }) := by
  simp only [byteIn, act_bind, act_get, ge_iff_le, if_neg (Nat.not_le.2 hin), memRead1_ok hread, act_update, act_pure]

/-- Settles O35: a bit by BITCNT and the bytes left, a byte by the bytes left. -/
theorem byteReaders : Obligations.ByteReaders :=
  ⟨fun _ => ⟨nextBit_usedUp, nextBit_newByte, nextBit_buffered⟩, fun _ => ⟨byteIn_past, byteIn_byte⟩⟩

/-! ### Receive (R293) -/

theorem bitVal_getLsbD (b : Byte) (n : Nat) : bitVal (b.getLsbD n) = b.toNat / 2 ^ n % 2 := by
  rw [BitVec.getLsbD, Nat.testBit_eq_decide_div_mod_eq, bitVal]
  rcases Nat.mod_two_eq_zero_or_one (b.toNat / 2 ^ n) with h | h <;> simp [h]

/-- Bits of BITBUF follow a value already read. -/
theorem receiveFrom_buffered : ∀ {n : Nat} {s : State} (v : Nat), n ≤ s.rd.bitCnt → receiveFrom n v s =
    .ok (v * 2 ^ n + s.rd.bitBuf.toNat / 2 ^ (s.rd.bitCnt - n) % 2 ^ n, { s with rd := { s.rd with bitCnt := s.rd.bitCnt - n } })
  | 0, s, v, _ => by
    rw [pow_zero, Nat.mod_one, Nat.mul_one]
    rfl
  | n + 1, s, v, h => by
    have hcnt : s.rd.bitCnt ≠ 0 := by omega
    have hrest : n ≤ s.rd.bitCnt - 1 := by omega
    have hsplit : 2 ^ (s.rd.bitCnt - 1) = 2 ^ (s.rd.bitCnt - (n + 1)) * 2 ^ n := by
      rw [← pow_add]
      congr 1
      omega
    simp only [receiveFrom, act_bind, nextBit_buffered hcnt]
    rw [receiveFrom_buffered (s := { s with rd := { s.rd with bitCnt := s.rd.bitCnt - 1 } }) _ hrest, bitVal_getLsbD]
    dsimp only
    rw [hsplit, ← Nat.div_div_eq_div_mul, show s.rd.bitCnt - 1 - n = s.rd.bitCnt - (n + 1) by omega]
    generalize s.rd.bitBuf.toNat / 2 ^ (s.rd.bitCnt - (n + 1)) = b
    rw [pow_succ, Nat.mod_mul]
    congr 2
    ring

theorem receiveFrom_add : ∀ (m n v : Nat), receiveFrom (m + n) v = (receiveFrom m v >>= receiveFrom n)
  | 0, n, v => by
    funext s
    rw [Nat.zero_add]
    rfl
  | m + 1, n, v => by
    funext s
    rw [Nat.add_right_comm, receiveFrom, receiveFrom]
    simp only [act_bind, receiveFrom_add m n]
    cases nextBit s <;> rfl

/-- The bits already read are the high part of the value. -/
theorem receiveFrom_eq : ∀ (n v : Nat), receiveFrom n v = (fun w => v * 2 ^ n + w) <$> receive n
  | 0, v => by
    funext s
    rw [pow_zero, Nat.mul_one]
    rfl
  | n + 1, v => by
    funext s
    rw [receive, receiveFrom, receiveFrom]
    simp only [act_bind, act_map, receiveFrom_eq n (2 * _ + _)]
    cases nextBit s with
    | error e => rfl
    | ok p =>
      dsimp only
      cases receive n p.2 with
      | error e => rfl
      | ok q =>
        dsimp only
        congr 2
        ring

theorem receive_add {m n v w : Nat} {s t u : State} (hm : receive m s = .ok (v, t)) (hn : receive n t = .ok (w, u)) :
    receive (m + n) s = .ok (v * 2 ^ n + w, u) := by
  rw [receive, receiveFrom_add, act_bind, ← receive, hm]
  dsimp only
  rw [receiveFrom_eq, act_map, hn]

/-! ### DecodeHuff (R292) -/

/-- The next bit of a longer word is received first. -/
theorem receive_init {n v : Nat} {s t : State} (h : receive (n + 1) s = .ok (v, t)) :
    ∃ w u bit, receive n s = .ok (w, u) ∧ nextBit u = .ok (bit, t) ∧ v = 2 * w + bitVal bit := by
  rw [receive, receiveFrom_add] at h
  obtain ⟨w, u, hw, h⟩ := act_bind_ok h
  obtain ⟨bit, u', hbit, h⟩ := act_bind_ok h
  cases h
  exact ⟨w, u, bit, hw, hbit, rfl⟩

theorem two_mul_bitVal_half (w : Nat) (bit : Bool) : (2 * w + bitVal bit) / 2 = w := by
  have : bitVal bit < 2 := by cases bit <;> decide
  omega

/-- Where none of the first bits are a codeword, the walk goes on behind them. -/
theorem walkTrie_prefix {codes : List Code} {fuel : Nat} : ∀ {n v : Nat} {s t : State}, receive n s = .ok (v, t) →
    (∀ l, l < n → findCode codes (v / 2 ^ (n - (l + 1))) (l + 1) = none) →
    walkTrie codes (fuel + n) 0 0 s = walkTrie codes fuel v n t
  | 0, v, s, t, h, _ => by
    cases h
    rfl
  | n + 1, v, s, t, h, hnone => by
    obtain ⟨w, u, bit, hw, hbit, rfl⟩ := receive_init h
    have hhalf := two_mul_bitVal_half w bit
    have hlast : findCode codes (2 * w + bitVal bit) (n + 1) = none := by
      have := hnone n (Nat.lt_succ_self n)
      rwa [Nat.sub_self, pow_zero, Nat.div_one] at this
    have hinit : ∀ l, l < n → findCode codes (w / 2 ^ (n - (l + 1))) (l + 1) = none := fun l hl => by
      have := hnone l (Nat.lt_succ_of_lt hl)
      rwa [show n + 1 - (l + 1) = n - (l + 1) + 1 by omega, pow_succ', ← Nat.div_div_eq_div_mul, hhalf] at this
    have hwalk := walkTrie_prefix (fuel := fuel + 1) hw hinit
    rw [show fuel + (n + 1) = fuel + 1 + n by omega, hwalk, walkTrie, act_bind, hbit]
    simp only [hlast]

/-- In a canonical code list a codeword's symbol is found, and none for the bits it begins with. -/
theorem findCode_of_past {c : Code} : ∀ {codes : List Code}, codes.Pairwise Past → c ∈ codes →
    findCode codes c.code c.len = some c.sym
  | a :: codes, hpast, hc => by
    obtain ⟨ha, hpast⟩ := List.pairwise_cons.1 hpast
    rcases List.mem_cons.1 hc with rfl | hc
    · simp [findCode]
    · have hne : ¬ (a.code == c.code && a.len == c.len) = true := by
        intro h
        rw [Bool.and_eq_true, beq_iff_eq, beq_iff_eq] at h
        have hnot := (ha c hc).not_begins
        rw [h.2, Nat.sub_self, pow_zero, Nat.div_one] at hnot
        exact hnot h.1.symm
      rw [findCode, List.find?_cons_of_neg (p := fun d : Code => d.code == c.code && d.len == c.len) hne]
      exact findCode_of_past hpast hc

/-- Of two codes of a canonical list one lies past the other. -/
theorem past_or_past {codes : List Code} {c d : Code} (hpast : codes.Pairwise Past) (hd : d ∈ codes) (hc : c ∈ codes) :
    d = c ∨ Past d c ∨ Past c d := by
  have hsymm : Std.Symm fun a b => a = b ∨ Past a b ∨ Past b a := ⟨fun _ _ h => h.imp Eq.symm Or.symm⟩
  exact (hpast.imp fun h => .inr (.inl h)).forall_of_forall (R := fun a b => a = b ∨ Past a b ∨ Past b a) (fun _ _ => .inl rfl) hd hc

theorem findCode_begin {codes : List Code} {c : Code} (hpast : codes.Pairwise Past) (hc : c ∈ codes) {l : Nat} (hl : l < c.len) :
    findCode codes (c.code / 2 ^ (c.len - l)) l = none := by
  rw [findCode, Option.map_eq_none_iff, List.find?_eq_none]
  intro d hd h
  rw [Bool.and_eq_true, beq_iff_eq, beq_iff_eq] at h
  obtain ⟨hcode, rfl⟩ := h
  rcases past_or_past hpast hd hc with rfl | h | h
  · exact lt_irrefl _ hl
  · exact h.not_begins hcode.symm
  · exact absurd h.1 (Nat.not_le.2 hl)

theorem decodeHuff_none (s : State) : decodeHuff none s = .error (.raise .formatError s) := rfl

/-- The walk meets no codeword before the one that was read. -/
theorem decodeHuff_codeword {bits : List Nat} {vals : List Byte} {table : HuffTable} {c : Code} {s t : State}
    (hbits : bits.length = 16) (htrie : buildTrie bits vals = some table.codes) (hc : c ∈ table.codes)
    (hread : receive c.len s = .ok (c.code, t)) : decodeHuff (some table) s = .ok (c.sym, t) := by
  have hpast : table.codes.Pairwise Past := pairwise_past (isChain_of_follows (assignCodes_follows htrie))
  obtain ⟨hpos, hlt, -⟩ := assignCodes_fits htrie hc
  obtain ⟨n, hn⟩ := Nat.exists_eq_add_of_le' hpos
  have hfound := findCode_of_past hpast hc
  have hbegin (l : Nat) (hl : l < n) := findCode_begin hpast hc (l := l + 1) (by omega)
  rw [hn] at hread hfound hbegin
  obtain ⟨w, u, bit, hw, hbit, hcode⟩ := receive_init hread
  have hhalf : c.code / 2 = w := by rw [hcode]; exact two_mul_bitVal_half w bit
  have hwalk := walkTrie_prefix (codes := table.codes) (fuel := 16 - n) hw fun l hl => by
    rw [← hhalf, Nat.div_div_eq_div_mul, ← pow_succ', show n - (l + 1) + 1 = n + 1 - (l + 1) by omega]
    exact hbegin l hl
  calc decodeHuff (some table) s = walkTrie table.codes (16 - n + n) 0 0 s := by rw [Nat.sub_add_cancel (by omega)]; rfl
    _ = walkTrie table.codes (15 - n + 1) w n u := by rw [hwalk, show 16 - n = 15 - n + 1 by omega]
    _ = .ok (c.sym, t) := by simp only [walkTrie, act_bind, hbit, ← hcode, hfound, act_pure]

/-- Settles O37: Receive by recursion on the bits, DecodeHuff by the walk along the codeword. -/
theorem receiveAndDecodeHuff : Obligations.ReceiveAndDecodeHuff := by
  refine ⟨⟨fun n s hn => ?_, fun m n v w s t u => receive_add⟩, decodeHuff_none, fun bits vals table c s t => decodeHuff_codeword⟩
  rw [receive, receiveFrom_buffered 0 hn, Nat.zero_mul, Nat.zero_add]

end Sys2Proof.Machine

namespace Sys2Proof.Machine

/-! ### What storing at one address leaves alone (R45, R260) -/

theorem grid_index {w x y x' y' : Nat} (hx : x < w) (hx' : x' < w) (h : y * w + x = y' * w + x') : x = x' ∧ y = y' := by
  have hmod := congrArg (· % w) h
  have hdiv := congrArg (· / w) h
  simp only [Nat.mul_add_mod_self_right, Nat.mod_eq_of_lt hx, Nat.mod_eq_of_lt hx'] at hmod
  simp only [Nat.mul_comm _ w, Nat.mul_add_div (Nat.zero_lt_of_lt hx), Nat.div_eq_of_lt hx, Nat.div_eq_of_lt hx'] at hdiv
  exact ⟨hmod, hdiv⟩

theorem Plane.block?_setBlock_ne {p : Plane} {x y x' y' : Nat} {old : Block} (h : p.block? x y = some old) (blk : Block)
    (hne : ¬ (x' = x ∧ y' = y)) : (p.setBlock x y blk).block? x' y' = p.block? x' y' := by
  obtain ⟨bw, bh, blocks, rfl, ⟨hx, -⟩, -⟩ := Plane.block?_some h
  simp only [Plane.setBlock, Plane.block?]
  by_cases hin : x' < bw ∧ y' < bh
  · rw [if_pos hin, if_pos hin, List.getElem?_set_ne]
    exact fun hix => hne (grid_index hin.1 hx hix.symm)
  · rw [if_neg hin, if_neg hin]

theorem Plane.sample?_setBlock (p : Plane) (x y : Nat) (blk : Block) (x' y' : Nat) :
    (p.setBlock x y blk).sample? x' y' = p.sample? x' y' := by
  cases p <;> rfl

theorem Plane.sample?_setSample_ne {p : Plane} {x y x' y' : Nat} {old : BitVec 16} (h : p.sample? x y = some old) (v : BitVec 16)
    (hne : ¬ (x' = x ∧ y' = y)) : (p.setSample x y v).sample? x' y' = p.sample? x' y' := by
  cases p with
  | dct => cases h
  | lossless sw sh cells =>
    simp only [Plane.sample?, Option.ite_none_right_eq_some] at h
    simp only [Plane.setSample, Plane.sample?]
    by_cases hin : x' < sw ∧ y' < sh
    · rw [if_pos hin, if_pos hin, List.getElem?_set_ne]
      intro hix
      have := grid_index (show x' + 1 < sw + 1 by omega) (show x + 1 < sw + 1 by omega) hix.symm
      exact hne (by omega)
    · rw [if_neg hin, if_neg hin]

theorem Plane.block?_setSample (p : Plane) (x y : Nat) (v : BitVec 16) (x' y' : Nat) :
    (p.setSample x y v).block? x' y' = p.block? x' y' := by
  cases p <;> rfl

/-- Every block and sample but the one at `a` is unchanged. -/
def OnlyAt (a : Address) (s t : State) : Prop := ∀ a', a' ≠ a → t.block? a' = s.block? a' ∧ t.sample? a' = s.sample? a'

theorem onlyAt_of_planes {a : Address} {s t : State} (h : t.arena.planes = s.arena.planes) : OnlyAt a s t := by
  intro a' _
  simp only [State.block?, State.sample?, State.plane, h, and_self]

theorem onlyAt_chain (a : Address) : Chain (OnlyAt a) where
  refl _ _ _ := ⟨rfl, rfl⟩
  trans h h' a' ha := ⟨(h' a' ha).1.trans (h a' ha).1, (h' a' ha).2.trans (h a' ha).2⟩

/-- A plane changed at one place is changed there only. -/
theorem onlyAt_mapPlane {s : State} {a : Address} {p : Plane} {f : Plane → Plane} (hp : s.plane a.c = some p)
    (hf : ∀ x y, ¬ (x = a.x ∧ y = a.y) → (f p).block? x y = p.block? x y ∧ (f p).sample? x y = p.sample? x y) :
    OnlyAt a s (s.mapPlane a.c f) := by
  intro a' ha
  by_cases hc : a.c = a'.c
  · have hc4 : a.c < 4 := by
      by_contra hge
      rw [State.plane, vget, Vector.getElem?_eq_none (by omega)] at hp
      cases hp
    have hplane : (s.mapPlane a.c f).plane a'.c = some (f p) := by
      rw [State.plane, State.mapPlane_arena, ← hc, vget_vset_same hc4, hp, Option.map_some]
    have hne : ¬ (a'.x = a.x ∧ a'.y = a.y) := by
      rintro ⟨hx, hy⟩
      apply ha
      cases a
      cases a'
      simp_all
    rw [State.block?, State.sample?, hplane, State.block?, State.sample?, ← hc, hp]
    exact hf _ _ hne
  · have hplane : (s.mapPlane a.c f).plane a'.c = s.plane a'.c := by
      rw [State.plane, State.mapPlane_arena, vget_vset_ne _ hc, State.plane]
    rw [State.block?, State.sample?, hplane, State.block?, State.sample?]
    exact ⟨rfl, rfl⟩

theorem onlyAt_withBlock {s : State} {a : Address} {old : Block} (h : s.block? a = some old) (blk : Block) :
    OnlyAt a s (s.withBlock a blk) := by
  obtain ⟨p, -, hp, hold⟩ := plane_of_block? h
  exact onlyAt_mapPlane hp fun x y hne => ⟨Plane.block?_setBlock_ne hold blk hne, Plane.sample?_setBlock _ _ _ _ _ _⟩

theorem onlyAt_withSample {s : State} {a : Address} {old : BitVec 16} (h : s.sample? a = some old) (v : BitVec 16) :
    OnlyAt a s (s.withSample a v) := by
  obtain ⟨p, hp, hold⟩ := Option.bind_eq_some_iff.1 h
  exact onlyAt_mapPlane hp fun x y hne => ⟨Plane.block?_setSample _ _ _ _ _ _, Plane.sample?_setSample_ne hold v hne⟩

/-- An action that ends in one state, or in a model fault. -/
theorem staysAt_ok {α : Type} {R : State → State → Prop} {m : Act α} {s t : State} {x : α} (h : m s = .ok (x, t)) (hR : R s t) :
    StaysAt R m s := by
  refine ⟨fun y u hu => ?_, fun e u hu => ?_⟩ <;> cases h.symm.trans hu
  exact hR

theorem staysAt_fault {α : Type} {R : State → State → Prop} {m : Act α} {s : State} {f : Fault} (h : m s = .error (.fault f)) :
    StaysAt R m s := by
  refine ⟨fun y u hu => ?_, fun e u hu => ?_⟩ <;> cases h.symm.trans hu

/-! ### Storing a coefficient or a sample (R301, R405) -/

/-- The coders, the sequencing, EOBRUN, the contexts, and every other block and sample are unchanged. -/
def Stores (a : Address) (s t : State) : Prop :=
  (t.qm = s.qm ∧ t.st = s.st ∧ t.rd = s.rd ∧ t.sq = s.sq ∧ t.pr.eobrun = s.pr.eobrun ∧ t.pr.dcCtx = s.pr.dcCtx) ∧ OnlyAt a s t

theorem stores_chain (a : Address) : Chain (Stores a) where
  refl s := ⟨⟨rfl, rfl, rfl, rfl, rfl, rfl⟩, (onlyAt_chain a).refl s⟩
  trans := by
    rintro s t u ⟨⟨h1, h2, h3, h4, h5, h6⟩, h⟩ ⟨⟨h1', h2', h3', h4', h5', h6'⟩, h'⟩
    exact ⟨⟨h1'.trans h1, h2'.trans h2, h3'.trans h3, h4'.trans h4, h5'.trans h5, h6'.trans h6⟩, (onlyAt_chain a).trans h h'⟩

section
variable (a : Address)

/-- A change of the predictors other than EOBRUN and the contexts. -/
theorem stores_pred {s t : State} {p : Pred} (ht : t = { s with pr := p }) (h : p.eobrun = s.pr.eobrun ∧ p.dcCtx = s.pr.dcCtx) :
    Stores a s t := by
  subst ht
  exact ⟨⟨rfl, rfl, rfl, rfl, h⟩, onlyAt_of_planes rfl⟩

theorem stores_checked32 (v : Int) : Stays (Stores a) (checked32 v) := by
  refine fun s => ⟨fun w t h => ?_, fun e t h => ?_⟩ <;> unfold checked32 at h <;> split at h <;> cases h
  · exact (stores_chain a).refl s
  · exact ⟨⟨rfl, rfl, rfl, rfl, rfl, rfl⟩, onlyAt_of_planes rfl⟩

theorem stores_getBlock (a' : Address) : Stays (Stores a) (getBlock a') :=
  stays_bind (stores_chain a) (stays_get (stores_chain a)) fun _ => stays_orUndefined (stores_chain a) _ _

theorem stores_getCoeff (a' : Address) (k : Nat) : Stays (Stores a) (getCoeff a' k) :=
  stays_bind (stores_chain a) (stores_getBlock a a') fun _ => stays_pure (stores_chain a) _

theorem stores_setCoeff (k : Nat) (v : Int) : Stays (Stores a) (setCoeff a k v) := by
  intro s
  cases hblk : s.block? a with
  | none =>
    exact staysAt_fault (f := .undefinedRead .plane) (by simp only [setCoeff, getBlock, act_bind, act_get, act_orUndefined, hblk])
  | some blk =>
    exact staysAt_ok (act_setCoeff hblk k v) ⟨⟨rfl, rfl, rfl, rfl, rfl, rfl⟩, onlyAt_withBlock hblk _⟩

theorem stores_storeShifted (k : Nat) (v : Int) : Stays (Stores a) (storeShifted a k v) :=
  stays_bind (stores_chain a) (stays_get (stores_chain a)) fun _ => stays_bind (stores_chain a) (stores_checked32 a _) fun _ =>
    stores_setCoeff a k _

theorem stores_predictDc (c : Nat) (diff : Int) : Stays (Stores a) (predictDc c diff) := by
  refine stays_bind (stores_chain a) (stays_get (stores_chain a)) fun s => stays_ite (stores_checked32 a _) ?_
  refine stays_bind (stores_chain a) (stores_checked32 a _) fun _ => stays_bind (stores_chain a) ?_ fun _ => stays_pure (stores_chain a) _
  exact stays_update fun _ => stores_pred a rfl ⟨rfl, rfl⟩

theorem stores_getSample (a' : Address) : Stays (Stores a) (getSample a') :=
  stays_bind (stores_chain a) (stays_get (stores_chain a)) fun _ => stays_bind (stores_chain a) (stays_orUndefined (stores_chain a) _ _)
    fun _ => stays_pure (stores_chain a) _

theorem stores_predictSample (a' : Address) : Stays (Stores a) (predictSample a') := by
  refine stays_bind (stores_chain a) (stays_get (stores_chain a)) fun s => stays_ite (stays_pure (stores_chain a) _)
    (stays_ite (stays_pure (stores_chain a) _) (stays_ite (stores_getSample a _) (stays_ite (stores_getSample a _) ?_)))
  exact stays_bind (stores_chain a) (stores_getSample a _) fun _ => stays_bind (stores_chain a) (stores_getSample a _) fun _ =>
    stays_bind (stores_chain a) (stores_getSample a _) fun _ => stays_pure (stores_chain a) _

theorem stores_setSample (v : BitVec 16) : Stays (Stores a) (setSample a v) := by
  intro s
  cases hold : s.sample? a with
  | none =>
    exact staysAt_fault (f := .undefinedRead .plane) (by simp only [setSample, act_bind, act_get, act_orUndefined, hold])
  | some old =>
    exact staysAt_ok (act_setSample (Option.ne_none_iff_exists'.2 ⟨old, hold⟩) v)
      ⟨⟨rfl, rfl, rfl, rfl, rfl, rfl⟩, onlyAt_withSample hold _⟩

theorem stores_storeSample (diff : Int) : Stays (Stores a) (storeSample a diff) := by
  refine stays_bind (stores_chain a) (stores_predictSample a a) fun _ => stays_bind (stores_chain a) (stores_setSample a _) fun _ => ?_
  exact stays_update fun _ => stores_pred a rfl ⟨rfl, rfl⟩

theorem stores_rowStarted (s : State) : Stores a s (s.rowStarted a) := by
  unfold State.rowStarted
  split
  · exact stores_pred a rfl ⟨rfl, rfl⟩
  · exact (stores_chain a).refl s

end

/-! ### Huffman decoding of one block (R292-R316, R400) -/

/-- The QM coder, SEG_END, the contexts, and every other block and sample are unchanged. -/
def HuffKeeps (a : Address) (s t : State) : Prop :=
  (t.qm = s.qm ∧ t.st = s.st ∧ t.rd.segEnd = s.rd.segEnd ∧ t.pr.dcCtx = s.pr.dcCtx) ∧ OnlyAt a s t

theorem huffKeeps_chain (a : Address) : Chain (HuffKeeps a) where
  refl s := ⟨⟨rfl, rfl, rfl, rfl⟩, (onlyAt_chain a).refl s⟩
  trans := by
    rintro s t u ⟨⟨h1, h2, h3, h4⟩, h⟩ ⟨⟨h1', h2', h3', h4'⟩, h'⟩
    exact ⟨⟨h1'.trans h1, h2'.trans h2, h3'.trans h3, h4'.trans h4⟩, (onlyAt_chain a).trans h h'⟩

/-- So is the sequencing. -/
def HuffStep (a : Address) (s t : State) : Prop := t.sq = s.sq ∧ HuffKeeps a s t

theorem huffStep_chain (a : Address) : Chain (HuffStep a) where
  refl s := ⟨rfl, (huffKeeps_chain a).refl s⟩
  trans h h' := ⟨h'.1.trans h.1, (huffKeeps_chain a).trans h.2 h'.2⟩

section
variable {α : Type} {a : Address}

theorem huffStep_of_reads {m : Act α} (h : Stays Reads m) : Stays (HuffStep a) m :=
  h.mono fun {s t} (ht : t = { s with rd := { t.rd with segEnd := s.rd.segEnd }, draws := t.draws }) => by
    rw [ht]
    exact ⟨rfl, ⟨rfl, rfl, rfl, rfl⟩, onlyAt_of_planes rfl⟩

theorem huffStep_of_stores {m : Act α} (h : Stays (Stores a) m) : Stays (HuffStep a) m :=
  h.mono fun ⟨⟨hqm, hst, hrd, hsq, _, hctx⟩, honly⟩ => ⟨hsq, ⟨hqm, hst, congrArg _ hrd, hctx⟩, honly⟩

theorem huffKeeps_of_step {m : Act α} {s t : State} {x : α} (h : m s = .ok (x, t)) (hm : Stays (HuffStep a) m) : HuffKeeps a s t :=
  ((hm s).1 x t h).2

theorem huffStep_setEobrun (n : Nat) : Stays (HuffStep a) (setEobrun n) :=
  stays_update fun _ => ⟨rfl, ⟨rfl, rfl, rfl, rfl⟩, onlyAt_of_planes rfl⟩

theorem huffStep_correct (k : Nat) : Stays (HuffStep a) (correct a k) := by
  refine stays_bind (huffStep_chain a) (huffStep_of_reads reads_nextBit) fun _ => stays_bind (huffStep_chain a)
    (stays_get (huffStep_chain a)) fun _ => stays_bind (huffStep_chain a) (huffStep_of_stores (stores_getCoeff a a k)) fun _ => ?_
  exact stays_ite (huffStep_of_stores (stores_setCoeff a k _)) (stays_pure (huffStep_chain a) _)

theorem huffStep_eobPass : ∀ fuel k, Stays (HuffStep a) (eobPass a fuel k)
  | 0, _ => stays_pure (huffStep_chain a) _
  | fuel + 1, k => by
    refine stays_bind (huffStep_chain a) (stays_get (huffStep_chain a)) fun _ => stays_ite ?_ (stays_pure (huffStep_chain a) _)
    refine stays_bind (huffStep_chain a) (huffStep_of_stores (stores_getCoeff a a k)) fun _ => ?_
    exact stays_ite (stays_bind (huffStep_chain a) (huffStep_correct k) fun _ => huffStep_eobPass fuel _)
      (stays_bind (huffStep_chain a) (stays_pure (huffStep_chain a) _) fun _ => huffStep_eobPass fuel _)

theorem huffStep_eobBlock (k : Nat) : Stays (HuffStep a) (eobBlock a k) :=
  stays_bind (huffStep_chain a) (huffStep_eobPass 64 k) fun _ => stays_bind (huffStep_chain a) (stays_get (huffStep_chain a)) fun _ =>
    huffStep_setEobrun _

theorem huffStep_refineSkip : ∀ fuel k r, Stays (HuffStep a) (refineSkip a fuel k r)
  | 0, _, _ => stays_pure (huffStep_chain a) _
  | fuel + 1, k, r => by
    refine stays_bind (huffStep_chain a) (stays_get (huffStep_chain a)) fun _ => stays_ite ?_ (stays_pure (huffStep_chain a) _)
    refine stays_bind (huffStep_chain a) (huffStep_of_stores (stores_getCoeff a a k)) fun _ => ?_
    refine stays_ite (stays_bind (huffStep_chain a) (huffStep_correct k) fun _ => huffStep_refineSkip fuel _ _) ?_
    exact stays_ite (stays_pure (huffStep_chain a) _) (huffStep_refineSkip fuel _ _)

/-- The block in progress, if there is one, is the one at `a`. -/
def WorksAt (a : Address) (s : State) : Prop := ∀ b, s.sq.block = some b → b.addr = a

/-- While the block at `a` is in progress. -/
def HuffWork (a : Address) (s t : State) : Prop := WorksAt a s → WorksAt a t ∧ HuffKeeps a s t

theorem huffWork_chain (a : Address) : Chain (HuffWork a) where
  refl s h := ⟨h, (huffKeeps_chain a).refl s⟩
  trans h h' hw := ⟨(h' (h hw).1).1, (huffKeeps_chain a).trans (h hw).2 (h' (h hw).1).2⟩

theorem huffWork_of_step {m : Act α} (h : Stays (HuffStep a) m) : Stays (HuffWork a) m :=
  h.mono fun ⟨hsq, hkeeps⟩ hw => ⟨fun b hb => hw b (hsq ▸ hb), hkeeps⟩

theorem huffWork_of_reads {m : Act α} (h : Stays Reads m) : Stays (HuffWork a) m := huffWork_of_step (huffStep_of_reads h)

theorem huffWork_of_stores {m : Act α} (h : Stays (Stores a) m) : Stays (HuffWork a) m := huffWork_of_step (huffStep_of_stores h)

/-- The block in progress is replaced by none, or by one at `a`. -/
theorem huffWork_block {o : Option OpenBlock} (h : ∀ b, o = some b → b.addr = a) (s : State) :
    HuffWork a s { s with sq := { s.sq with block := o } } :=
  fun _ => ⟨h, ⟨rfl, rfl, rfl, rfl⟩, onlyAt_of_planes rfl⟩

theorem huffWork_closeBlock : Stays (HuffWork a) closeBlock := stays_update fun s => huffWork_block (by simp) s

theorem huffWork_setOpen {b : OpenBlock} (hb : b.addr = a) : Stays (HuffWork a) (setOpen b) :=
  stays_update fun s => huffWork_block (fun _ h => Option.some.inj h ▸ hb) s

theorem huffWork_moveTo {b : OpenBlock} (hb : b.addr = a) (k : Nat) : Stays (HuffWork a) (moveTo b k) :=
  stays_bind (huffWork_chain a) (stays_get (huffWork_chain a)) fun _ => stays_ite (huffWork_setOpen hb) huffWork_closeBlock

theorem theBlock_bind_none {f : OpenBlock → Act α} {s : State} (hb : s.sq.block = none) :
    (theBlock >>= f) s = .error (.fault (.undefinedRead .block)) := by
  simp only [theBlock, act_bind, act_get, act_orUndefined, hb]

/-- What is done with the block in progress is done at `a`. -/
theorem huffWork_theBlock {f : OpenBlock → Act α} (hf : ∀ b, b.addr = a → Stays (HuffWork a) (f b)) :
    Stays (HuffWork a) (theBlock >>= f) := by
  intro s
  cases hb : s.sq.block with
  | none => exact staysAt_fault (theBlock_bind_none hb)
  | some b =>
    have hrun : (theBlock >>= f) s = f b s := by rw [act_bind, act_theBlock hb]
    exact ⟨fun x t h hw => (hf b (hw b hb) s).1 x t (hrun ▸ h) hw, fun e t h hw => (hf b (hw b hb) s).2 e t (hrun ▸ h) hw⟩

theorem huffWork_dcCategoryAct (t : Nat) : Stays (HuffWork a) (dcCategoryAct t) := by
  refine huffWork_theBlock fun b hb => ?_
  subst hb
  refine stays_bind (huffWork_chain _) (huffWork_of_reads (reads_receive t)) fun _ => stays_bind (huffWork_chain _)
    (huffWork_of_stores (stores_predictDc _ _ _)) fun _ =>
      stays_bind (huffWork_chain _) (huffWork_of_stores (stores_storeShifted _ _ _)) fun _ => ?_
  exact stays_ite (huffWork_setOpen rfl) huffWork_closeBlock

theorem huffWork_endOfBandAct (r : Nat) : Stays (HuffWork a) (endOfBandAct r) := by
  refine huffWork_theBlock fun b hb => stays_ite ?_ ?_
  · exact stays_bind (huffWork_chain a) (stays_require (huffWork_chain a) _) fun _ => huffWork_closeBlock
  · subst hb
    refine stays_bind (huffWork_chain _) (huffWork_of_reads (reads_receive r)) fun _ => ?_
    refine stays_ite (stays_bind (huffWork_chain _) (huffWork_of_step (huffStep_setEobrun _)) fun _ => ?_)
      (stays_bind (huffWork_chain _) (huffWork_of_step (huffStep_setEobrun _)) fun _ => huffWork_closeBlock)
    exact stays_bind (huffWork_chain _) (huffWork_of_step (huffStep_eobBlock _)) fun _ => huffWork_closeBlock

theorem huffWork_zrlAct : Stays (HuffWork a) zrlAct := by
  refine huffWork_theBlock fun b hb => stays_bind (huffWork_chain a) (stays_get (huffWork_chain a)) fun _ => ?_
  subst hb
  refine stays_ite (stays_bind (huffWork_chain _) (huffWork_of_step (huffStep_refineSkip _ _ _)) fun _ => huffWork_moveTo rfl _) ?_
  exact stays_bind (huffWork_chain _) (stays_require (huffWork_chain _) _) fun _ => huffWork_moveTo rfl _

theorem huffWork_coeffAct (r sz : Nat) : Stays (HuffWork a) (coeffAct r sz) := by
  refine huffWork_theBlock fun b hb => stays_bind (huffWork_chain a) (stays_get (huffWork_chain a)) fun _ => ?_
  subst hb
  refine stays_ite ?_ ?_
  · refine stays_bind (huffWork_chain _) (stays_require (huffWork_chain _) _) fun _ => stays_bind (huffWork_chain _)
      (huffWork_of_reads reads_nextBit) fun _ => stays_bind (huffWork_chain _) (huffWork_of_step (huffStep_refineSkip _ _ _)) fun _ => ?_
    exact stays_bind (huffWork_chain _) (stays_require (huffWork_chain _) _) fun _ => stays_bind (huffWork_chain _)
      (huffWork_of_stores (stores_setCoeff _ _ _)) fun _ => huffWork_moveTo rfl _
  · refine stays_bind (huffWork_chain _) (stays_require (huffWork_chain _) _) fun _ => stays_bind (huffWork_chain _)
      (huffWork_of_reads (reads_receive sz)) fun _ => ?_
    exact stays_ite (stays_bind (huffWork_chain _) (huffWork_of_stores (stores_setCoeff _ _ _)) fun _ => huffWork_moveTo rfl _)
      (stays_bind (huffWork_chain _) (huffWork_of_stores (stores_storeShifted _ _ _)) fun _ => huffWork_moveTo rfl _)

theorem huffWork_losslessDiffAct (t : Nat) : Stays (HuffWork a) (losslessDiffAct t) := by
  refine huffWork_theBlock fun b hb => ?_
  subst hb
  exact stays_bind (huffWork_chain _) (huffWork_of_reads (reads_receive t)) fun _ => stays_bind (huffWork_chain _)
    (huffWork_of_stores (stores_storeSample _ _)) fun _ => huffWork_closeBlock

theorem huffWork_symbolAct (i : Instr) : Stays (HuffWork a) (symbolAct i) := by
  unfold symbolAct
  split
  · exact huffWork_dcCategoryAct _
  · exact huffWork_losslessDiffAct _
  · exact huffWork_endOfBandAct _
  · exact huffWork_zrlAct
  · exact huffWork_endOfBandAct _
  · exact huffWork_coeffAct _ _
  · exact stays_stop _

theorem huffWork_fetchSymbol : Stays (HuffWork a) fetchSymbol :=
  huffWork_theBlock fun _ _ => stays_bind (huffWork_chain a) (stays_get (huffWork_chain a)) fun _ => stays_bind (huffWork_chain a)
    (huffWork_of_reads (reads_decodeHuff _)) fun _ => stays_orFormatError (huffWork_chain a) _

theorem huffWork_runSymbols : ∀ fuel, Stays (HuffWork a) (runSymbols fuel)
  | 0 => stays_stop _
  | fuel + 1 => by
    refine stays_bind (huffWork_chain a) huffWork_fetchSymbol fun i => stays_bind (huffWork_chain a) (huffWork_symbolAct i) fun _ =>
      stays_bind (huffWork_chain a) (stays_get (huffWork_chain a)) fun _ => ?_
    exact stays_ite (huffWork_runSymbols fuel) (stays_pure (huffWork_chain a) _)

/-- Once the block at `a` is in progress, its symbols keep the rest, whatever was in progress before. -/
theorem huffKeeps_started {m : Act α} (hm : Stays (HuffWork a) m) {o : Option OpenBlock} (ho : ∀ b, o = some b → b.addr = a)
    {s s' t : State} {x : α} (hs : HuffKeeps a s s') (h : m { s' with sq := { s'.sq with block := o } } = .ok (x, t)) :
    HuffKeeps a s t := by
  have hopen : HuffKeeps a s' { s' with sq := { s'.sq with block := o } } := ⟨⟨rfl, rfl, rfl, rfl⟩, onlyAt_of_planes rfl⟩
  exact (huffKeeps_chain a).trans hs ((huffKeeps_chain a).trans hopen ((hm _).1 x t h ho).2)

theorem huffKeeps_runBand {b : OpenBlock} (hb : b.addr = a) {s t : State} (h : runBand b s = .ok ((), t)) : HuffKeeps a s t := by
  rw [runBand, act_bind, act_moveTo] at h
  refine huffKeeps_started (o := b.movedTo (s.bandEnd b) b.k) ?_ ?_ ((huffKeeps_chain a).refl s) h
  · exact stays_bind (huffWork_chain a) (stays_get (huffWork_chain a)) fun _ =>
      stays_ite (huffWork_runSymbols _) (stays_pure (huffWork_chain a) _)
  · intro b' hb'
    obtain ⟨-, hmoved⟩ := Option.ite_none_right_eq_some.1 hb'
    exact Option.some.inj hmoved ▸ hb

end

/-! #### The instructions that read Huffman codes -/

theorem busy_failEntry (e : ErrKind) (s : State) : (failEntry e s).busy = false := by
  rw [State.busy, State.failEntry_regs]
  exact (by decide : (statusWord false true true).getLsbD 0 = false)

/-- A step of an action that is still busy is no failure. -/
theorem act_of_runAct_busy {m : Act Unit} {s t : State} (h : runAct m s = .next t) (hb : t.busy = true) : m s = .ok ((), t) := by
  rcases runAct_cases m s with ⟨u, hu, h'⟩ | ⟨e, u, -, h'⟩ | ⟨f, -, h'⟩
  · cases h'.symm.trans h
    exact hu
  · cases h'.symm.trans h
    cases (busy_failEntry e u).symm.trans hb
  · cases h'.symm.trans h

/-- A routine works at the address of its descriptor entry. -/
theorem currentAddress_bind_ok {f : Address → Act Unit} {s t : State} (h : (currentAddress >>= f) s = .ok ((), t)) :
    ∃ e, s.sc.mcud[s.sc.entry]? = some e ∧ f (s.addressOf e) s = .ok ((), t) := by
  cases he : s.sc.mcud[s.sc.entry]? with
  | none =>
    have hfault : currentAddress s = .error (.fault (.undefinedRead .descriptor)) := by
      simp only [currentAddress, act_bind, act_get, act_orUndefined, he]
    rw [act_bind, hfault] at h
    cases h
  | some e =>
    rw [act_bind, act_currentAddress he] at h
    exact ⟨e, rfl, h⟩

/-- Without a block in progress a symbol is a model fault. -/
theorem symbolAct_none (i : Instr) {s : State} (hb : s.sq.block = none) : ∃ f, symbolAct i s = .error (.fault f) := by
  unfold symbolAct
  split
  · exact ⟨_, theBlock_bind_none hb⟩
  · exact ⟨_, theBlock_bind_none hb⟩
  · exact ⟨_, theBlock_bind_none hb⟩
  · exact ⟨_, theBlock_bind_none hb⟩
  · exact ⟨_, theBlock_bind_none hb⟩
  · exact ⟨_, theBlock_bind_none hb⟩
  · exact ⟨_, rfl⟩

/-- A symbol works on the block in progress. -/
theorem huffKeeps_symbol {i : Instr} {s t : State} (h : symbolAct i s = .ok ((), t)) :
    ∃ a, s.sq.block.map (·.addr) = some a ∧ HuffKeeps a s t := by
  cases hb : s.sq.block with
  | none =>
    obtain ⟨f, hf⟩ := symbolAct_none i hb
    cases hf.symm.trans h
  | some b =>
    have hw : WorksAt b.addr s := fun b' hb' => by rw [Option.some.inj (hb.symm.trans hb')]
    exact ⟨b.addr, rfl, ((huffWork_symbolAct i s).1 _ _ h hw).2⟩

/-- A routine that opens the block at its address and reads its symbols. -/
theorem huffKeeps_openAndRun {b : OpenBlock} {s t : State} (h : (setOpen b >>= fun _ => runSymbols symbolBound) s = .ok ((), t)) :
    HuffKeeps b.addr s t :=
  huffKeeps_started (huffWork_runSymbols symbolBound) (fun _ hb => by rw [Option.some.inj hb]) ((huffKeeps_chain _).refl s) h

/-- A routine relates its end to its start at the address of its descriptor entry. -/
def AtEntry (R : Address → State → State → Prop) (m : Act Unit) : Prop :=
  ∀ {s t : State}, m s = .ok ((), t) → ∃ a, (s.sc.mcud[s.sc.entry]?).map s.addressOf = some a ∧ R a s t

theorem huffKeeps_hufSeqAct : AtEntry HuffKeeps hufSeqAct := fun h =>
  have ⟨_, he, h⟩ := currentAddress_bind_ok h
  ⟨_, congrArg (Option.map _) he, huffKeeps_openAndRun h⟩

theorem huffKeeps_hufDcFirstAct : AtEntry HuffKeeps hufDcFirstAct := fun h =>
  have ⟨_, he, h⟩ := currentAddress_bind_ok h
  ⟨_, congrArg (Option.map _) he, huffKeeps_openAndRun h⟩

theorem huffKeeps_hufDcRefineAct : AtEntry HuffKeeps hufDcRefineAct := by
  intro s t h
  obtain ⟨e, he, h⟩ := currentAddress_bind_ok h
  refine ⟨_, congrArg (Option.map _) he, huffKeeps_of_step h ?_⟩
  refine stays_bind (huffStep_chain _) (huffStep_of_reads reads_nextBit) fun _ => stays_bind (huffStep_chain _)
    (stays_get (huffStep_chain _)) fun _ => stays_bind (huffStep_chain _) (huffStep_of_stores (stores_getCoeff _ _ 0)) fun _ => ?_
  exact stays_ite (huffStep_of_stores (stores_setCoeff _ 0 _)) (stays_pure (huffStep_chain _) _)

theorem huffKeeps_hufAcFirstAct : AtEntry HuffKeeps hufAcFirstAct := by
  intro s t h
  obtain ⟨e, he, h⟩ := currentAddress_bind_ok h
  refine ⟨_, congrArg (Option.map _) he, ?_⟩
  simp only [act_bind, act_get, act_ite] at h
  split at h
  · exact huffKeeps_of_step h (huffStep_setEobrun _)
  · exact huffKeeps_runBand rfl h

theorem huffKeeps_hufAcRefineAct : AtEntry HuffKeeps hufAcRefineAct := by
  intro s t h
  obtain ⟨e, he, h⟩ := currentAddress_bind_ok h
  refine ⟨_, congrArg (Option.map _) he, ?_⟩
  simp only [act_bind, act_get, act_ite] at h
  split at h
  · exact huffKeeps_of_step h (huffStep_eobBlock _)
  · exact huffKeeps_runBand rfl h

theorem huffKeeps_hufLosslessAct : AtEntry HuffKeeps hufLosslessAct := by
  intro s t h
  obtain ⟨e, he, h⟩ := currentAddress_bind_ok h
  refine ⟨_, congrArg (Option.map _) he, ?_⟩
  obtain ⟨⟨hqm, hst, hrd, _, _, hctx⟩, honly⟩ := stores_rowStarted (s.addressOf e) s
  rw [act_bind, act_rowStart] at h
  exact (huffKeeps_chain _).trans ⟨⟨hqm, hst, congrArg _ hrd, hctx⟩, honly⟩ (huffKeeps_openAndRun h)

/-- An instruction that reads Huffman codes works at its target. -/
theorem exec_huffman {i : Instr} {s t : State} (hi : readsHuffman i = true) (h : exec i s = .next t) (hb : t.busy = true) :
    Calm s t ∧ ∃ a, targetOf i s = some a ∧ HuffKeeps a s t := by
  have symbol (h : runAct (symbolAct i) s = .next t) : Calm s t ∧ ∃ a, s.sq.block.map (·.addr) = some a ∧ HuffKeeps a s t := by
    have hok := act_of_runAct_busy h hb
    exact ⟨(calm_symbolAct i s).1 _ _ hok, huffKeeps_symbol hok⟩
  have routine {m : Act Unit} (hcalm : Stays Calm m) (hkeeps : AtEntry HuffKeeps m) (h : runAct m s = .next t) :
      Calm s t ∧ ∃ a, (s.sc.mcud[s.sc.entry]?).map s.addressOf = some a ∧ HuffKeeps a s t := by
    have hok := act_of_runAct_busy h hb
    exact ⟨(hcalm s).1 _ _ hok, hkeeps hok⟩
  cases i with
  | dcCategory | losslessDiff | eob | zrl | eobn | acCoeff => exact symbol h
  | hufSeq => exact routine calm_hufSeqAct huffKeeps_hufSeqAct h
  | hufDcFirst => exact routine calm_hufDcFirstAct huffKeeps_hufDcFirstAct h
  | hufDcRefine => exact routine calm_hufDcRefineAct huffKeeps_hufDcRefineAct h
  | hufAcFirst => exact routine calm_hufAcFirstAct huffKeeps_hufAcFirstAct h
  | hufAcRefine => exact routine calm_hufAcRefineAct huffKeeps_hufAcRefineAct h
  | hufLossless => exact routine calm_hufLosslessAct huffKeeps_hufLosslessAct h
  | _ => cases hi

/-! ### Arithmetic decoding of one block (R344-R360, R420) -/

/-- The sequencing, the reader but BP, EOBRUN, and every other block and sample are unchanged. -/
def AriKeeps (a : Address) (s t : State) : Prop :=
  (t.sq = s.sq ∧ t.rd = { s.rd with bp := t.rd.bp } ∧ t.pr.eobrun = s.pr.eobrun) ∧ OnlyAt a s t

theorem ariKeeps_chain (a : Address) : Chain (AriKeeps a) where
  refl s := ⟨⟨rfl, rfl, rfl⟩, (onlyAt_chain a).refl s⟩
  trans := by
    rintro s t u ⟨⟨h1, h2, h3⟩, h⟩ ⟨⟨h1', h2', h3'⟩, h'⟩
    refine ⟨⟨h1'.trans h1, ?_, h3'.trans h3⟩, (onlyAt_chain a).trans h h'⟩
    rw [h2', h2]

section
variable {α : Type} {a : Address}

theorem ariKeeps_of_stores {m : Act α} (h : Stays (Stores a) m) : Stays (AriKeeps a) m :=
  h.mono fun {s t} ⟨⟨_, _, hrd, hsq, hrun, _⟩, honly⟩ => ⟨⟨hsq, by rw [hrd], hrun⟩, honly⟩

/-- A change of the coder, of BP, of the bins and of the contexts. -/
theorem ariKeeps_update {f : State → State} (h : ∀ s, ∃ bp qm st d ctx,
    f s = { s with rd := { s.rd with bp := bp }, qm := qm, st := st, draws := d, pr := { s.pr with dcCtx := ctx } }) :
    Stays (AriKeeps a) (update f) := by
  refine stays_update fun s => ?_
  obtain ⟨bp, qm, st, d, ctx, hf⟩ := h s
  rw [hf]
  exact ⟨⟨rfl, rfl, rfl⟩, onlyAt_of_planes rfl⟩

/-- A read of the input changes the free-value counter at most. -/
theorem engineLoad_draws (s : State) (off : Nat) : ∃ d, (s.engineLoad off).2 = { s with draws := d } := by
  unfold State.engineLoad State.load
  split
  · exact ⟨_, rfl⟩
  · split <;> exact ⟨_, rfl⟩

theorem ariKeeps_loadByte (off : Nat) : Stays (AriKeeps a) (loadByte off) := by
  intro s
  obtain ⟨d, hd⟩ := engineLoad_draws s off
  refine staysAt_ok (t := (s.engineLoad off).2) rfl ?_
  rw [hd]
  exact ⟨⟨rfl, rfl, rfl⟩, onlyAt_of_planes rfl⟩

theorem ariKeeps_byteIn : Stays (AriKeeps a) byteIn := by
  refine stays_bind (ariKeeps_chain a) (stays_get (ariKeeps_chain a)) fun _ => stays_ite ?_ ?_
  · exact stays_bind (ariKeeps_chain a) (ariKeeps_update fun _ => ⟨_, _, _, _, _, rfl⟩) fun _ => stays_pure (ariKeeps_chain a) _
  · refine stays_bind (ariKeeps_chain a) ?_ fun _ => stays_bind (ariKeeps_chain a) (ariKeeps_update fun _ => ⟨_, _, _, _, _, rfl⟩)
      fun _ => stays_pure (ariKeeps_chain a) _
    exact stays_bind (ariKeeps_chain a) (stays_get (ariKeeps_chain a)) fun _ =>
      stays_ite (stays_raise (ariKeeps_chain a) _) (ariKeeps_loadByte _)

theorem ariKeeps_renormRound : Stays (AriKeeps a) renormRound := by
  refine stays_bind (ariKeeps_chain a) (stays_get (ariKeeps_chain a)) fun _ =>
    stays_ite ?_ (ariKeeps_update fun _ => ⟨_, _, _, _, _, rfl⟩)
  exact stays_bind (ariKeeps_chain a) ariKeeps_byteIn fun _ => ariKeeps_update fun _ => ⟨_, _, _, _, _, rfl⟩

theorem ariKeeps_renorm : ∀ fuel, Stays (AriKeeps a) (renorm fuel)
  | 0 => stays_stop _
  | fuel + 1 => stays_bind (ariKeeps_chain a) (stays_get (ariKeeps_chain a)) fun _ => stays_ite
      (stays_bind (ariKeeps_chain a) ariKeeps_renormRound fun _ => ariKeeps_renorm fuel) (stays_pure (ariKeeps_chain a) _)

theorem ariKeeps_arithDecode (bin : Bin) : Stays (AriKeeps a) (arithDecode bin) :=
  stays_bind (ariKeeps_chain a) (ariKeeps_renorm _) fun _ => stays_bind (ariKeeps_chain a) (stays_get (ariKeeps_chain a)) fun _ =>
    stays_bind (ariKeeps_chain a) (ariKeeps_update fun _ => ⟨_, _, _, _, _, rfl⟩) fun _ => stays_pure (ariKeeps_chain a) _

/-! #### The decision trees (R352, R354, R421) -/

theorem ariKeeps_magnitude (bin : Nat → Bin) : ∀ fuel i m, Stays (AriKeeps a) (magnitude bin fuel i m)
  | 0, _, _ => stays_stop _
  | fuel + 1, _, _ => stays_bind (ariKeeps_chain a) (ariKeeps_arithDecode _) fun _ => stays_ite
      (stays_ite (stays_raise (ariKeeps_chain a) _) (ariKeeps_magnitude bin fuel _ _)) (stays_pure (ariKeeps_chain a) _)

theorem ariKeeps_magnitudeBits (bin : Bin) : ∀ fuel b v, Stays (AriKeeps a) (magnitudeBits bin fuel b v)
  | 0, _, _ => stays_pure (ariKeeps_chain a) _
  | fuel + 1, _, _ => stays_ite (stays_pure (ariKeeps_chain a) _)
      (stays_bind (ariKeeps_chain a) (ariKeeps_arithDecode _) fun _ => ariKeeps_magnitudeBits bin fuel _ _)

theorem ariKeeps_diffCategory (bin : Nat → Bin) (s0 x1 : Nat) : Stays (AriKeeps a) (diffCategory bin s0 x1) :=
  stays_bind (ariKeeps_chain a) (ariKeeps_arithDecode _) fun _ => stays_bind (ariKeeps_chain a) (ariKeeps_arithDecode _) fun _ =>
    stays_ite (stays_bind (ariKeeps_chain a) (ariKeeps_magnitude _ _ _ _) fun _ => stays_pure (ariKeeps_chain a) _)
      (stays_pure (ariKeeps_chain a) _)

theorem ariKeeps_diffValue (bin : Nat → Bin) (sign : Bool) (m i : Nat) : Stays (AriKeeps a) (diffValue bin sign m i) :=
  stays_bind (ariKeeps_chain a) (ariKeeps_magnitudeBits _ _ _ _) fun _ => stays_pure (ariKeeps_chain a) _

theorem ariKeeps_decodeDcDiff (c : Nat) : Stays (AriKeeps a) (decodeDcDiff c) := by
  have hctx (x : Nat) : Stays (AriKeeps a) (setDcCtx c x) := ariKeeps_update fun _ => ⟨_, _, _, _, _, rfl⟩
  refine stays_bind (ariKeeps_chain a) (stays_get (ariKeeps_chain a)) fun _ => stays_bind (ariKeeps_chain a) (ariKeeps_arithDecode _)
    fun _ => stays_ite ?_ (stays_bind (ariKeeps_chain a) (hctx _) fun _ => stays_pure (ariKeeps_chain a) _)
  exact stays_bind (ariKeeps_chain a) (ariKeeps_diffCategory _ _ _) fun _ => stays_bind (ariKeeps_chain a) (hctx _) fun _ =>
    ariKeeps_diffValue _ _ _ _

theorem ariKeeps_decodeAcValue (c k : Nat) : Stays (AriKeeps a) (decodeAcValue c k) := by
  refine stays_bind (ariKeeps_chain a) (stays_get (ariKeeps_chain a)) fun _ => stays_bind (ariKeeps_chain a) (ariKeeps_arithDecode _)
    fun _ => stays_bind (ariKeeps_chain a) (ariKeeps_arithDecode _) fun _ => ?_
  have hvalue (bin : Bin) (sign : Bool) (b v : Nat) : Stays (AriKeeps a) (do
      let v ← magnitudeBits bin magnitudeBound b v
      pure (signed sign (v + 1))) :=
    stays_bind (ariKeeps_chain a) (ariKeeps_magnitudeBits _ _ _ _) fun _ => stays_pure (ariKeeps_chain a) _
  refine stays_ite ?_ (stays_bind (ariKeeps_chain a) (stays_pure (ariKeeps_chain a) _) fun _ => hvalue _ _ _ _)
  refine stays_bind (ariKeeps_chain a) (ariKeeps_arithDecode _) fun _ => stays_ite ?_ ?_
  · exact stays_bind (ariKeeps_chain a) (ariKeeps_magnitude _ _ _ _) fun _ => hvalue _ _ _ _
  · exact stays_bind (ariKeeps_chain a) (stays_pure (ariKeeps_chain a) _) fun _ => hvalue _ _ _ _

theorem ariKeeps_decodeDiffLl (t s0 xbase : Nat) : Stays (AriKeeps a) (decodeDiffLl t s0 xbase) :=
  stays_bind (ariKeeps_chain a) (ariKeeps_arithDecode _) fun _ => stays_ite
    (stays_bind (ariKeeps_chain a) (ariKeeps_diffCategory _ _ _) fun _ => ariKeeps_diffValue _ _ _ _) (stays_pure (ariKeeps_chain a) _)

/-! #### The bands (R350, R358, R360) -/

theorem ariKeeps_zeroRun (bin : Nat → Bin) (last : Nat) : ∀ fuel k, Stays (AriKeeps a) (zeroRun bin last fuel k)
  | 0, _ => stays_stop _
  | fuel + 1, _ => stays_bind (ariKeeps_chain a) (ariKeeps_arithDecode _) fun _ => stays_ite (stays_pure (ariKeeps_chain a) _)
      (stays_ite (stays_raise (ariKeeps_chain a) _) (ariKeeps_zeroRun bin last fuel _))

theorem ariKeeps_ariBand (bin : Nat → Bin) (last : Nat) {store : Nat → Int → Act Unit}
    (hstore : ∀ k v, Stays (AriKeeps a) (store k v)) : ∀ fuel k, Stays (AriKeeps a) (ariBand a bin last store fuel k)
  | 0, _ => stays_stop _
  | fuel + 1, _ => by
    refine stays_ite (stays_bind (ariKeeps_chain a) (ariKeeps_arithDecode _) fun _ => stays_ite (stays_pure (ariKeeps_chain a) _) ?_)
      (stays_pure (ariKeeps_chain a) _)
    exact stays_bind (ariKeeps_chain a) (ariKeeps_zeroRun _ _ _ _) fun _ => stays_bind (ariKeeps_chain a) (ariKeeps_decodeAcValue _ _)
      fun _ => stays_bind (ariKeeps_chain a) (hstore _ _) fun _ => ariKeeps_ariBand bin last hstore fuel _

theorem ariKeeps_refineRun (bin : Nat → Bin) (last : Nat) (p1 : Int) : ∀ fuel k, Stays (AriKeeps a) (refineRun a bin last p1 fuel k)
  | 0, _ => stays_stop _
  | fuel + 1, k => by
    have hset (v : Int) : Stays (AriKeeps a) (do
        setCoeff a k v
        pure k) :=
      stays_bind (ariKeeps_chain a) (ariKeeps_of_stores (stores_setCoeff a k v)) fun _ => stays_pure (ariKeeps_chain a) _
    refine stays_bind (ariKeeps_chain a) (ariKeeps_of_stores (stores_getCoeff a a k)) fun _ => stays_ite ?_ ?_
    · exact stays_bind (ariKeeps_chain a) (ariKeeps_arithDecode _) fun _ => stays_ite (hset _)
        (stays_pure (ariKeeps_chain a) _)
    · refine stays_bind (ariKeeps_chain a) (ariKeeps_arithDecode _) fun _ => stays_ite ?_
        (stays_ite (stays_raise (ariKeeps_chain a) _) (ariKeeps_refineRun bin last p1 fuel _))
      exact stays_bind (ariKeeps_chain a) (ariKeeps_arithDecode _) fun _ => hset _

theorem ariKeeps_refineBand (bin : Nat → Bin) (last kex : Nat) (p1 : Int) :
    ∀ fuel k, Stays (AriKeeps a) (refineBand a bin last kex p1 fuel k)
  | 0, _ => stays_stop _
  | fuel + 1, k => by
    have hrun : Stays (AriKeeps a) (do
        let k' ← refineRun a bin last p1 64 k
        refineBand a bin last kex p1 fuel (k' + 1)) :=
      stays_bind (ariKeeps_chain a) (ariKeeps_refineRun _ _ _ _ _) fun _ => ariKeeps_refineBand bin last kex p1 fuel _
    refine stays_ite (stays_ite ?_ ?_) (stays_pure (ariKeeps_chain a) _)
    · exact stays_bind (ariKeeps_chain a) (ariKeeps_arithDecode _) fun _ => stays_ite (stays_pure (ariKeeps_chain a) _) hrun
    · exact stays_bind (ariKeeps_chain a) (stays_pure (ariKeeps_chain a) _) fun _ => stays_ite (stays_pure (ariKeeps_chain a) _) hrun

end

/-! #### The arithmetic routines -/

/-- A routine keeps the rest where what it does at each address does. -/
theorem ariKeeps_routine {f : Address → Act Unit} (hf : ∀ a, Stays (AriKeeps a) (f a)) : AtEntry AriKeeps (currentAddress >>= f) := by
  intro s t h
  obtain ⟨e, he, h⟩ := currentAddress_bind_ok h
  exact ⟨_, congrArg (Option.map _) he, (hf _ s).1 _ _ h⟩

theorem ariKeeps_ariSeqAct : AtEntry AriKeeps ariSeqAct := by
  refine ariKeeps_routine fun a => ?_
  refine stays_bind (ariKeeps_chain a) (ariKeeps_decodeDcDiff _) fun _ => stays_bind (ariKeeps_chain a)
    (ariKeeps_of_stores (stores_predictDc a _ _)) fun _ =>
      stays_bind (ariKeeps_chain a) (ariKeeps_of_stores (stores_setCoeff a _ _)) fun _ => ?_
  exact stays_bind (ariKeeps_chain a) (stays_get (ariKeeps_chain a)) fun _ =>
    ariKeeps_ariBand _ _ (fun k v => ariKeeps_of_stores (stores_setCoeff a k v)) _ _

theorem ariKeeps_ariDcFirstAct : AtEntry AriKeeps ariDcFirstAct := by
  refine ariKeeps_routine fun a => ?_
  exact stays_bind (ariKeeps_chain a) (ariKeeps_decodeDcDiff _) fun _ => stays_bind (ariKeeps_chain a)
    (ariKeeps_of_stores (stores_predictDc a _ _)) fun _ => ariKeeps_of_stores (stores_storeShifted a _ _)

theorem ariKeeps_ariDcRefineAct : AtEntry AriKeeps ariDcRefineAct := by
  refine ariKeeps_routine fun a => ?_
  refine stays_bind (ariKeeps_chain a) (ariKeeps_arithDecode _) fun _ => stays_bind (ariKeeps_chain a) (stays_get (ariKeeps_chain a))
    fun _ => stays_bind (ariKeeps_chain a) (ariKeeps_of_stores (stores_getCoeff a a 0)) fun _ => ?_
  exact stays_ite (ariKeeps_of_stores (stores_setCoeff a 0 _)) (stays_pure (ariKeeps_chain a) _)

theorem ariKeeps_ariAcFirstAct : AtEntry AriKeeps ariAcFirstAct := by
  refine ariKeeps_routine fun a => ?_
  exact stays_bind (ariKeeps_chain a) (stays_get (ariKeeps_chain a)) fun _ =>
    ariKeeps_ariBand _ _ (fun k v => ariKeeps_of_stores (stores_storeShifted a k v)) _ _

theorem ariKeeps_ariAcRefineAct : AtEntry AriKeeps ariAcRefineAct := by
  refine ariKeeps_routine fun a => ?_
  exact stays_bind (ariKeeps_chain a) (stays_get (ariKeeps_chain a)) fun _ => stays_bind (ariKeeps_chain a)
    (ariKeeps_of_stores (stores_getBlock a a)) fun _ => ariKeeps_refineBand _ _ _ _ _ _

theorem ariKeeps_ariLosslessAct : AtEntry AriKeeps ariLosslessAct := by
  refine ariKeeps_routine fun a => ?_
  refine stays_bind (ariKeeps_chain a) (ariKeeps_of_stores (stays_update (stores_rowStarted a))) fun _ => ?_
  exact stays_bind (ariKeeps_chain a) (stays_get (ariKeeps_chain a)) fun _ => stays_bind (ariKeeps_chain a) (ariKeeps_decodeDiffLl _ _ _)
    fun _ => ariKeeps_of_stores (stores_storeSample a _)

/-- An instruction that reads arithmetic decisions works at its target. -/
theorem exec_arithmetic {i : Instr} {s t : State} (hi : readsDecisions i = true) (h : exec i s = .next t) (hb : t.busy = true) :
    Calm s t ∧ ∃ a, targetOf i s = some a ∧ AriKeeps a s t := by
  have routine {m : Act Unit} (hcalm : Stays Calm m) (hkeeps : AtEntry AriKeeps m) (h : runAct m s = .next t) :
      Calm s t ∧ ∃ a, (s.sc.mcud[s.sc.entry]?).map s.addressOf = some a ∧ AriKeeps a s t := by
    have hok := act_of_runAct_busy h hb
    exact ⟨(hcalm s).1 _ _ hok, hkeeps hok⟩
  cases i with
  | ariSeq => exact routine calm_ariSeqAct ariKeeps_ariSeqAct h
  | ariDcFirst => exact routine calm_ariDcFirstAct ariKeeps_ariDcFirstAct h
  | ariDcRefine => exact routine calm_ariDcRefineAct ariKeeps_ariDcRefineAct h
  | ariAcFirst => exact routine calm_ariAcFirstAct ariKeeps_ariAcFirstAct h
  | ariAcRefine => exact routine calm_ariAcRefineAct ariKeeps_ariAcRefineAct h
  | ariLossless => exact routine calm_ariLosslessAct ariKeeps_ariLosslessAct h
  | _ => cases hi

/-- A calm step changes of the arena the planes. -/
theorem Calm.arena {s t : State} (h : Calm s t) : t.arena = { s.arena with planes := t.arena.planes } := by
  obtain ⟨-, ⟨hused, hlayout, hdc, hac, hrs, hacc⟩, -, -⟩ := h
  dsimp only
  rw [← hused, ← hlayout, ← hdc, ← hac, ← hrs, ← hacc]

/-- A calm step changes of the sequencing the block in progress. -/
theorem Calm.seq {s t : State} (h : Calm s t) : t.sq = { s.sq with block := t.sq.block } := by
  obtain ⟨-, -, ⟨hphase, hmoff, hivstart, hscanEnd, hframeIx, hscanIx, hauxPos⟩, -⟩ := h
  dsimp only
  rw [← hphase, ← hmoff, ← hivstart, ← hscanEnd, ← hframeIx, ← hscanIx, ← hauxPos]

/-- Settles O47: what every entropy action keeps, and what those of the two coders keep beside their target. -/
theorem entropyFrames : Obligations.EntropyFrames := by
  refine ⟨fun i s t hi h _ hb => ?_, fun i s t hi h _ hb => ?_⟩
  · obtain ⟨hcalm, a, ha, ⟨hqm, hst, hseg, hctx⟩, honly⟩ := exec_huffman hi h hb
    obtain ⟨⟨hregs, hmem, hparams, hscript, hrdata, hhi, henc, hfr, hsc, htb, hbreach⟩, -, -, hover⟩ := id hcalm
    exact ⟨hregs, hmem, hparams, hscript, hrdata, hhi, henc, hfr, hsc, htb, hbreach, hqm, hst, hseg, hctx, hcalm.arena, hcalm.seq,
      hover, fun a' ha' => honly a' fun heq => ha' (heq ▸ ha)⟩
  · obtain ⟨hcalm, a, ha, ⟨hsq, hrd, hrun⟩, honly⟩ := exec_arithmetic hi h hb
    obtain ⟨⟨hregs, hmem, hparams, hscript, hrdata, hhi, henc, hfr, hsc, htb, hbreach⟩, -, -, hover⟩ := id hcalm
    exact ⟨hregs, hmem, hparams, hscript, hrdata, hhi, henc, hfr, hsc, htb, hbreach, hsq, hrd, hrun, hcalm.arena, hover,
      fun a' ha' => honly a' fun heq => ha' (heq ▸ ha)⟩

end Sys2Proof.Machine

namespace Sys2Proof.Machine

/-! ### A block in its plane and a block held aside

The model decodes a block in its plane, with the block in progress in the state; the rules hold the block aside and store it at the end.
The two agree where each answer of the one is the answer of the other with the block stored. -/

/-- The block `blk` stored at `a`, and `o` as the block in progress. -/
def State.held (s : State) (a : Address) (blk : Block) (o : Option OpenBlock) : State :=
  s.touched (fun q => { q with block := o }) (fun pl => vset pl a.c ((vget pl a.c none).map fun p => p.setBlock a.x a.y blk)) id

theorem failEntry_held (e : ErrKind) (s : State) (a : Address) (blk : Block) (o : Option OpenBlock) :
    failEntry e (s.held a blk o) = failEntry e s := rfl

section
variable {s : State} {a : Address} {old : Block}

theorem block?_held (h : s.block? a = some old) (blk : Block) (o : Option OpenBlock) : (s.held a blk o).block? a = some blk :=
  block?_withBlock h blk

/-- A block that stands in its plane is stored there already. -/
theorem held_self (h : s.block? a = some old) (o : Option OpenBlock) : s.held a old o = s.opened o :=
  congrArg (fun t : State => t.opened o) (withBlock_self h)

theorem withBlock_held (h : s.block? a = some old) (b b' : Block) (o : Option OpenBlock) :
    (s.held a b o).withBlock a b' = s.held a b' o :=
  congrArg (fun t : State => t.opened o) (withBlock_withBlock h b b')

theorem act_setCoeff_held (h : s.block? a = some old) (blk : Block) (o : Option OpenBlock) (k : Nat) (v : Int) :
    setCoeff a k v (s.held a blk o) = .ok ((), s.held a (vset blk k v) o) := by
  rw [act_setCoeff (block?_held h blk o), withBlock_held h]

theorem act_getCoeff_held (h : s.block? a = some old) (blk : Block) (o : Option OpenBlock) (k : Nat) :
    getCoeff a k (s.held a blk o) = .ok (vget blk k 0, s.held a blk o) := act_getCoeff (block?_held h blk o) k

end

/-- Two answers agree: the first is the second through `g`; errors are the same, and so are the failure entries from them. -/
inductive Agrees {α β : Type} (g : β → State → α × State) : Except Stop (α × State) → Except Stop (β × State) → Prop
  | ok (b : β) (t : State) : Agrees g (.ok (g b t)) (.ok (b, t))
  | raise {e : ErrKind} {u t : State} (h : failEntry e u = failEntry e t) : Agrees g (.error (.raise e u)) (.error (.raise e t))
  | fault (f : Fault) : Agrees g (.error (.fault f)) (.error (.fault f))

section
variable {α β γ δ : Type} {s s' : State}

theorem agrees_bind {g : β → State → α × State} {g' : δ → State → γ × State} {m : Act α} {m' : Act β} {k : α → Act γ}
    {k' : β → Act δ} (h : Agrees g (m s) (m' s'))
    (hk : ∀ b t, m' s' = .ok (b, t) → Agrees g' (k (g b t).1 (g b t).2) (k' b t)) : Agrees g' ((m >>= k) s) ((m' >>= k') s') := by
  rw [act_bind, act_bind]
  generalize m s = x at h
  cases hm : m' s' with
  | error e =>
    rw [hm] at h
    cases h with
    | raise h => exact .raise h
    | fault f => exact .fault f
  | ok p =>
    rw [hm] at h
    cases h with
    | ok b t => exact hk b t hm

/-- An action that does not look at what is held agrees with itself. -/
theorem agrees_oblivious {m : Act α} {a : Address} {blk : Block} {o : Option OpenBlock}
    (h : ∀ {q pl}, Oblivious (·.touched q pl id) m) :
    Agrees (fun x t => (x, t.held a blk o)) (m (s.held a blk o)) (m s) := by
  have hm : m (s.held a blk o) = answerAt (·.held a blk o) (m s) := h s
  rw [hm]
  rcases m s with (⟨e, t⟩ | f) | ⟨x, t⟩
  · exact .raise (failEntry_held e t a blk o)
  · exact .fault f
  · exact .ok x t

theorem runAct_of_agrees {m m' : Act Unit} (h : Agrees (fun _ t => ((), t)) (m s) (m' s')) : runAct m s = runAct m' s' := by
  unfold runAct
  generalize m s = x at h
  generalize m' s' = y at h
  cases h with
  | ok _ t => rfl
  | raise h => exact congrArg _ h
  | fault f => rfl

/-- The block held aside is stored, and no block is in progress. -/
def storeAndClose (a : Address) (blk : Block) : Act Unit := setBlock a blk >>= fun _ => closeBlock

theorem agrees_storeAndClose {a : Address} {x : Except Stop (Unit × State)} {m : Act Block}
    (h : Agrees (fun blk t => ((), t.held a blk none)) x (m s)) :
    Agrees (fun _ t => ((), t)) x ((m >>= storeAndClose a) s) := by
  rw [act_bind]
  generalize m s = y at h
  cases h with
  | ok blk t => exact .ok () (t.held a blk none)
  | raise h => exact .raise h
  | fault f => exact .fault f

end

/-! ### What a rule's procedure leaves alone -/

/-- The scan, the frame, the arena and the sequencing are unchanged. -/
def Aside (s t : State) : Prop := t.sc = s.sc ∧ t.fr = s.fr ∧ t.arena = s.arena ∧ t.sq = s.sq

theorem aside_chain : Chain Aside where
  refl _ := ⟨rfl, rfl, rfl, rfl⟩
  trans h h' := ⟨h'.1.trans h.1, h'.2.1.trans h.2.1, h'.2.2.1.trans h.2.2.1, h'.2.2.2.trans h.2.2.2⟩

theorem aside_of_reads {α : Type} {m : Act α} (h : Stays Reads m) : Stays Aside m :=
  h.mono fun {s t} (ht : t = { s with rd := { t.rd with segEnd := s.rd.segEnd }, draws := t.draws }) => by
    rw [ht]
    exact ⟨rfl, rfl, rfl, rfl⟩

theorem aside_setEobrun (n : Nat) : Stays Aside (setEobrun n) := stays_update fun _ => ⟨rfl, rfl, rfl, rfl⟩

theorem aside_checked32 (v : Int) : Stays Aside (checked32 v) := by
  refine fun s => ⟨fun w t h => ?_, fun e t h => ?_⟩ <;> unfold checked32 at h <;> split at h <;> cases h
  · exact ⟨rfl, rfl, rfl, rfl⟩
  · exact ⟨rfl, rfl, rfl, rfl⟩

theorem Aside.block? {s t : State} (h : Aside s t) (a : Address) : t.block? a = s.block? a := by
  rw [State.block?, State.plane, h.2.2.1]
  rfl

theorem Aside.bandEnd {s t : State} (h : Aside s t) (b : OpenBlock) : t.bandEnd b = s.bandEnd b := by
  rw [State.bandEnd, h.1]
  rfl

section
variable {q : Seq → Seq} {pl : Vector (Option Plane) 4 → Vector (Option Plane) 4} {p : Pred → Pred}

theorem oblivious_setEobrun (n : Nat) : Oblivious (·.touched q pl id) (setEobrun n) := oblivious_update fun _ => rfl

theorem oblivious_checked32 (v : Int) : Oblivious (·.touched q pl p) (checked32 v) := by
  intro s
  unfold checked32
  split <;> rfl

end

/-! ### The symbols of a band, the block held aside -/

/-- AC symbols from position `k` on, at most `fuel` of them: what a symbol does, `step`, gives the next position, or none where the band
is done, and the block. -/
def symbolsAside (table : Option HuffTable) (stop : Nat) (step : Nat → Block → Byte → Act (Option Nat × Block)) :
    Nat → Nat → Block → Act Block
  | 0, _, blk => pure blk
  | fuel + 1, k, blk =>
    if k ≤ stop then do
      let rs ← decodeHuff table
      let next ← step k blk rs
      match next.1 with
      | some k' => symbolsAside table stop step fuel k' next.2
      | none => pure next.2
    else pure blk

theorem symbolsAside_past {table : Option HuffTable} {stop : Nat} {step : Nat → Block → Byte → Act (Option Nat × Block)} {k : Nat}
    (h : stop < k) (fuel : Nat) (blk : Block) : symbolsAside table stop step fuel k blk = pure blk := by
  cases fuel with
  | zero => rfl
  | succ fuel => rw [symbolsAside, if_neg (Nat.not_le.2 h)]

/-- The block in progress once a symbol is done: at the next position, or none. -/
def OpenBlock.after (b : OpenBlock) (stop : Nat) (next : Option Nat) : Option OpenBlock := next.bind fun k' => b.movedTo stop k'

/-- A byte of an AC table by its two halves (R154). -/
theorem symbolAct_decodeSymAc (rs : Byte) : symbolAct (decodeSymAc rs) =
    if rs.toNat % 16 = 0 then (if rs.toNat / 16 = 15 then zrlAct else endOfBandAct (rs.toNat / 16))
    else coeffAct (rs.toNat / 16) (rs.toNat % 16) := by
  have hr : (rs.extractLsb' 4 4).toNat = rs.toNat / 16 := by
    rw [BitVec.extractLsb'_toNat, Nat.shiftRight_eq_div_pow]
    have := rs.isLt
    omega
  have hs : (rs.setWidth 4).toNat = rs.toNat % 16 := BitVec.toNat_setWidth 4 rs
  rw [decodeSymAc, ← hr, ← hs]
  generalize rs.extractLsb' 4 4 = r
  generalize rs.setWidth 4 = sz
  have hr15 : r.toNat = 15 ↔ r = 15 := BitVec.toNat_inj (y := 15#4)
  have hs0 : sz.toNat = 0 ↔ sz = 0 := BitVec.toNat_inj (y := 0#4)
  by_cases hsz : sz = 0
  · rw [if_pos hsz, if_pos (hs0.2 hsz)]
    by_cases h0 : r = 0
    · subst h0
      rfl
    by_cases h15 : r = 15
    · subst h15
      rfl
    · rw [if_neg h0, if_neg h15, if_neg (mt hr15.1 h15)]
      rfl
  · rw [if_neg hsz, if_neg (mt hs0.1 hsz)]
    rfl

/-- The next symbol of a block in progress is decoded with its table, whatever is held. -/
theorem fetchSymbol_ac {s : State} {a : Address} {blk : Block} {b : OpenBlock} (haddr : b.addr = a) (hstage : b.stage = .ac) :
    fetchSymbol (s.held a blk (some b)) =
      (decodeSymAc <$> decodeHuff (vget s.arena.acTables (s.fr.compAt a.c).ta.toNat none)) (s.held a blk (some b)) := by
  have htable : (s.held a blk (some b)).symbolTable b = vget s.arena.acTables (s.fr.compAt a.c).ta.toNat none := by
    simp only [State.symbolTable, hstage, haddr]
    rfl
  have hspace : b.symbolSpace = .symAc := by simp only [OpenBlock.symbolSpace, hstage]
  simp only [fetchSymbol, act_bind, act_map, act_theBlock (b := b) (s := s.held a blk (some b)) rfl, act_get, htable, hspace]
  cases decodeHuff (vget s.arena.acTables (s.fr.compAt a.c).ta.toNat none) (s.held a blk (some b)) <;> rfl

/-- The symbols of a band in its plane agree with those held aside, where each symbol does. -/
theorem runSymbols_aside {s0 : State} {a : Address} {b : OpenBlock} {stop : Nat}
    {step : Nat → Block → Byte → Act (Option Nat × Block)} (haddr : b.addr = a) (hstage : b.stage = .ac)
    (hstep : ∀ {s : State} {k : Nat} (blk : Block) (rs : Byte), Aside s0 s → k ≤ stop →
      Agrees (fun next t => ((), t.held a next.2 ({ b with k := k }.after stop next.1)))
        (symbolAct (decodeSymAc rs) (s.held a blk (some { b with k := k }))) (step k blk rs s))
    (hstays : ∀ k blk rs, Stays Aside (step k blk rs))
    (hnext : ∀ {k : Nat} {blk blk' : Block} {rs : Byte} {s t : State} {k' : Nat}, step k blk rs s = .ok ((some k', blk'), t) → k < k') :
    ∀ {fuel n k : Nat} {s : State} (blk : Block), Aside s0 s → k ≤ stop → stop < fuel + k → stop < n + k →
      Agrees (fun blk' t => ((), t.held a blk' none)) (runSymbols n (s.held a blk (some { b with k := k })))
        (symbolsAside (vget s0.arena.acTables (s0.fr.compAt a.c).ta.toNat none) stop step fuel k blk s) := by
  intro fuel
  induction fuel with
  | zero =>
    intro n k s blk _ hk hfuel
    omega
  | succ fuel ih =>
    intro n k s blk hs hk hfuel hn
    obtain ⟨n, rfl⟩ : ∃ m, n = m + 1 := ⟨n - 1, by omega⟩
    have htable : vget s0.arena.acTables (s0.fr.compAt a.c).ta.toNat none = vget s.arena.acTables (s.fr.compAt a.c).ta.toNat none := by
      rw [hs.2.2.1, hs.2.1]
    have hrun : runSymbols (n + 1) (s.held a blk (some { b with k := k })) =
        (decodeHuff (vget s0.arena.acTables (s0.fr.compAt a.c).ta.toNat none) >>= fun rs => symbolAct (decodeSymAc rs) >>= fun _ =>
          get >>= fun s => if s.sq.block.isSome then runSymbols n else pure ()) (s.held a blk (some { b with k := k })) := by
      rw [runSymbols, act_bind, fetchSymbol_ac (b := { b with k := k }) haddr hstage, act_map, act_bind, htable]
      cases decodeHuff (vget s.arena.acTables (s.fr.compAt a.c).ta.toNat none) (s.held a blk (some { b with k := k })) <;> rfl
    rw [hrun, symbolsAside, if_pos hk]
    refine agrees_bind (agrees_oblivious (oblivious_decodeHuff _)) fun rs t ht => ?_
    have ht' : Aside s0 t := aside_chain.trans hs ((aside_of_reads (reads_decodeHuff _) s).1 _ _ ht)
    refine agrees_bind (hstep blk rs ht' hk) fun ⟨o, blk'⟩ u hu => ?_
    have hu' : Aside s0 u := aside_chain.trans ht' ((hstays k blk rs t).1 _ _ hu)
    dsimp only
    cases o with
    | none => exact .ok blk' u
    | some k' =>
      have hlt := hnext hu
      rw [act_bind, act_get, OpenBlock.after, Option.bind_some, OpenBlock.movedTo]
      by_cases hin : k' ≤ stop
      · rw [if_pos hin]
        exact ih blk' hu' hin (by omega) (by omega)
      · dsimp only
        rw [if_neg hin, symbolsAside_past (Nat.not_le.1 hin)]
        exact .ok blk' u

/-! ### Sequential blocks and first scans (R302, R314) -/

/-- A coefficient's value as a pass stores it: shifted by AL but in a sequential block. -/
def Mode.value (m : Mode) (al : Nat) (v : Int) : Act Int := if m = .seq then pure v else checked32 (v * 2 ^ al)

/-- What a symbol `rs` does at position `k` of a sequential block or a first scan. -/
def passStep (m : Mode) (stop al k : Nat) (blk : Block) (rs : Byte) : Act (Option Nat × Block) :=
  let r := rs.toNat / 16
  let sz := rs.toNat % 16
  if sz = 0 then
    if r = 15 then (if k + 16 > stop + 1 then raise .formatError else pure (some (k + 16), blk))
    else if m = .seq then (if r = 0 then pure (none, blk) else raise .formatError)
    else do
      let n ← receive r
      setEobrun (2 ^ r + n - 1)
      pure (none, blk)
  else if k + r > stop then raise .formatError
  else do
    let v ← receive sz
    let w ← m.value al (extend v sz)
    pure (some (k + r + 1), vset blk (k + r) w)

theorem raise_bind {α β : Type} (e : ErrKind) (f : α → Act β) : raise e >>= f = raise e := rfl

theorem acSeq_eq (table : Option HuffTable) (al : Nat) : ∀ fuel k blk,
    Rule.acSeq table fuel k blk = symbolsAside table 63 (passStep .seq 63 al) fuel k blk
  | 0, _, _ => rfl
  | fuel + 1, k, blk => by
    rw [Rule.acSeq, symbolsAside]
    refine if_congr Iff.rfl (bind_congr fun rs => ?_) rfl
    simp only [passStep, acSeq_eq table al fuel, Mode.value, if_true]
    by_cases hsz : rs.toNat % 16 = 0
    · rw [if_pos hsz, if_pos hsz]
      by_cases h15 : rs.toNat / 16 = 15
      · rw [if_neg (by omega), if_pos h15, if_pos h15]
        split
        · rfl
        · rw [pure_bind]
      · rw [if_neg h15, if_neg h15]
        split
        · rw [pure_bind]
        · rfl
    · rw [if_neg hsz, if_neg hsz]
      split
      · rfl
      · simp only [bind_assoc, pure_bind]

theorem acFirst_eq (table : Option HuffTable) (se al : Nat) : ∀ fuel k blk,
    Rule.acFirst table se al fuel k blk = symbolsAside table se (passStep .first se al) fuel k blk
  | 0, _, _ => rfl
  | fuel + 1, k, blk => by
    rw [Rule.acFirst, symbolsAside]
    refine if_congr Iff.rfl (bind_congr fun rs => ?_) rfl
    have hmode : ¬ Mode.first = .seq := by decide
    simp only [passStep, acFirst_eq table se al fuel, Mode.value, if_neg hmode]
    by_cases hsz : rs.toNat % 16 = 0
    · rw [if_pos hsz, if_pos hsz]
      by_cases h15 : rs.toNat / 16 = 15
      · rw [if_neg (by omega), if_pos h15]
        split
        · rfl
        · rw [pure_bind]
      · have := rs.isLt
        rw [if_pos (by omega), if_neg h15]
        simp only [bind_assoc, pure_bind]
    · rw [if_neg hsz, if_neg hsz]
      split
      · rfl
      · simp only [bind_assoc, pure_bind]

theorem aside_value (m : Mode) (al : Nat) (v : Int) : Stays Aside (m.value al v) :=
  stays_ite (stays_pure aside_chain _) (aside_checked32 _)

theorem passStep_stays (m : Mode) (stop al k : Nat) (blk : Block) (rs : Byte) : Stays Aside (passStep m stop al k blk rs) := by
  have hpure (x : Option Nat × Block) : Stays Aside (pure x) := stays_pure aside_chain x
  have hraise : Stays Aside (raise .formatError : Act (Option Nat × Block)) := stays_raise aside_chain _
  have hreceive (n : Nat) : Stays Aside (receive n) := aside_of_reads (reads_receive n)
  refine stays_ite (stays_ite (stays_ite hraise (hpure _)) (stays_ite (stays_ite (hpure _) hraise) ?_)) (stays_ite hraise ?_)
  · exact stays_bind aside_chain (hreceive _) fun n => stays_bind aside_chain (aside_setEobrun _) fun _ => hpure _
  · exact stays_bind aside_chain (hreceive _) fun v => stays_bind aside_chain (aside_value m al _) fun _ => hpure _

/-- A symbol that leaves the band open moves on. -/
theorem passStep_next {m : Mode} {stop al k k' : Nat} {blk blk' : Block} {rs : Byte} {s t : State}
    (h : passStep m stop al k blk rs s = .ok ((some k', blk'), t)) : k < k' := by
  unfold passStep at h
  split at h
  · split at h
    · split at h <;> cases h
      exact Nat.lt_add_of_pos_right (by decide)
    · split at h
      · split at h <;> cases h
      · obtain ⟨n, u, -, h⟩ := act_bind_ok h
        cases h
  · split at h
    · cases h
    · obtain ⟨v, u, -, h⟩ := act_bind_ok h
      obtain ⟨w, u', -, h⟩ := act_bind_ok h
      cases h
      omega

section
variable {s : State} {a : Address} {old : Block} {b : OpenBlock} (hold : s.block? a = some old) (haddr : b.addr = a)

theorem act_moveTo_held (blk : Block) (o : Option OpenBlock) (k : Nat) :
    moveTo b k (s.held a blk o) = .ok ((), s.held a blk (b.movedTo (s.bandEnd b) k)) := act_moveTo b k _

theorem act_theBlock_held (blk : Block) : theBlock (s.held a blk (some b)) = .ok (b, s.held a blk (some b)) := act_theBlock rfl

include hold

theorem storeShifted_agrees (blk : Block) (o : Option OpenBlock) (k : Nat) (v : Int) :
    Agrees (fun w t => ((), t.held a (vset blk k w) o)) (storeShifted a k v (s.held a blk o)) (checked32 (v * 2 ^ s.sc.al.toNat) s) := by
  have hstore : storeShifted a k v (s.held a blk o) = (checked32 (v * 2 ^ s.sc.al.toNat) >>= setCoeff a k) (s.held a blk o) := rfl
  rw [hstore, ← bind_pure (checked32 _)]
  simp only [bind_assoc, pure_bind]
  refine agrees_bind (agrees_oblivious (oblivious_checked32 _)) fun w t ht => ?_
  have ht' := (aside_checked32 _ s).1 _ _ ht
  dsimp only
  rw [act_setCoeff_held ((ht'.block? a).trans hold)]
  exact .ok w t

include haddr

theorem value_agrees (m : Mode) (blk : Block) (o : Option OpenBlock) (k : Nat) (v : Int) :
    Agrees (fun w t => ((), t.held a (vset blk k w) o))
      ((if m = .seq then setCoeff b.addr k v else storeShifted b.addr k v) (s.held a blk o)) (m.value s.sc.al.toNat v s) := by
  subst haddr
  by_cases hm : m = .seq
  · rw [if_pos hm, act_setCoeff_held hold, Mode.value, if_pos hm]
    exact .ok v s
  · rw [if_neg hm, Mode.value, if_neg hm]
    exact storeShifted_agrees hold blk o k v

omit hold haddr in
theorem zrl_agrees (hm : ¬ b.mode = .refine) (blk : Block) :
    Agrees (fun next t => ((), t.held a next.2 (b.after (s.bandEnd b) next.1))) (zrlAct (s.held a blk (some b)))
      ((if b.k + 16 > s.bandEnd b + 1 then raise .formatError else pure (some (b.k + 16), blk) : Act (Option Nat × Block)) s) := by
  have hend : (s.held a blk (some b)).bandEnd b = s.bandEnd b := rfl
  rw [zrl_pass rfl hm, hend]
  by_cases hk : b.k + 16 > s.bandEnd b + 1
  · rw [if_pos hk, if_neg (Nat.not_le.2 hk)]
    exact .raise (failEntry_held _ _ _ _ _)
  · rw [if_neg hk, if_pos (Nat.not_lt.1 hk)]
    exact .ok (some (b.k + 16), blk) s

omit hold haddr in
theorem endOfBand_agrees (hm : ¬ b.mode = .refine) (blk : Block) (r : Nat) :
    Agrees (fun next t => ((), t.held a next.2 (b.after (s.bandEnd b) next.1))) (endOfBandAct r (s.held a blk (some b)))
      ((if b.mode = .seq then (if r = 0 then pure (none, blk) else raise .formatError)
        else do
          let n ← receive r
          setEobrun (2 ^ r + n - 1)
          pure (none, blk) : Act (Option Nat × Block)) s) := by
  by_cases hseq : b.mode = .seq
  · rw [if_pos hseq, endOfBand_seq rfl hseq]
    by_cases hr : r = 0
    · rw [if_pos hr, if_pos hr]
      exact .ok (none, blk) s
    · rw [if_neg hr, if_neg hr]
      exact .raise (failEntry_held _ _ _ _ _)
  · rw [if_neg hseq, endOfBandAct, act_bind, act_theBlock_held]
    dsimp only
    rw [if_neg hseq]
    refine agrees_bind (agrees_oblivious (oblivious_receive r)) fun n t _ => ?_
    dsimp only
    rw [if_neg hm]
    exact .ok (none, blk) { t with pr := { t.pr with eobrun := 2 ^ r + n - 1 } }

theorem coeff_agrees (hm : ¬ b.mode = .refine) (blk : Block) (r sz : Nat) :
    Agrees (fun next t => ((), t.held a next.2 (b.after (s.bandEnd b) next.1))) (coeffAct r sz (s.held a blk (some b)))
      ((if b.k + r > s.bandEnd b then raise .formatError
        else do
          let v ← receive sz
          let w ← b.mode.value s.sc.al.toNat (extend v sz)
          pure (some (b.k + r + 1), vset blk (b.k + r) w) : Act (Option Nat × Block)) s) := by
  by_cases hk : b.k + r > s.bandEnd b
  · rw [if_pos hk, coeff_beyond (s := s.held a blk (some b)) rfl hm sz hk]
    exact .raise (failEntry_held _ _ _ _ _)
  have hmodel : coeffAct r sz (s.held a blk (some b)) = (receive sz >>= fun v =>
      (if b.mode = .seq then setCoeff b.addr (b.k + r) (extend v sz) else storeShifted b.addr (b.k + r) (extend v sz)) >>= fun _ =>
      moveTo b (b.k + r + 1)) (s.held a blk (some b)) := by
    have hend : b.k + r ≤ (s.held a blk (some b)).bandEnd b := Nat.not_lt.1 hk
    simp only [coeffAct, act_bind, act_theBlock_held, act_get, if_neg hm, act_require, decide_eq_true hend, if_true]
    by_cases hseq : b.mode = .seq <;> simp only [hseq, if_true, if_false, act_bind]
  rw [if_neg hk, hmodel]
  refine agrees_bind (agrees_oblivious (oblivious_receive sz)) fun v t ht => ?_
  have ht' := (aside_of_reads (reads_receive sz) s).1 _ _ ht
  have hvalue := value_agrees ((ht'.block? a).trans hold) haddr b.mode blk (some b) (b.k + r) (extend v sz)
  rw [ht'.1] at hvalue
  refine agrees_bind hvalue fun w u hu => ?_
  have hu' := aside_chain.trans ht' ((aside_value _ _ _ t).1 _ _ hu)
  dsimp only
  rw [act_moveTo_held, hu'.bandEnd]
  exact .ok (some (b.k + r + 1), vset blk (b.k + r) w) u

theorem passStep_agrees (hm : ¬ b.mode = .refine) (blk : Block) (rs : Byte) :
    Agrees (fun next t => ((), t.held a next.2 (b.after (s.bandEnd b) next.1))) (symbolAct (decodeSymAc rs) (s.held a blk (some b)))
      (passStep b.mode (s.bandEnd b) s.sc.al.toNat b.k blk rs s) := by
  rw [symbolAct_decodeSymAc, passStep]
  by_cases hsz : rs.toNat % 16 = 0
  · rw [if_pos hsz, if_pos hsz]
    by_cases h15 : rs.toNat / 16 = 15
    · rw [if_pos h15, if_pos h15]
      exact zrl_agrees hm blk
    · rw [if_neg h15, if_neg h15]
      exact endOfBand_agrees hm blk _
  · rw [if_neg hsz, if_neg hsz]
    exact coeff_agrees hold haddr hm blk _ _

end

theorem bandEnd_lt (s : State) (b : OpenBlock) : s.bandEnd b < 64 := by
  unfold State.bandEnd
  split
  · decide
  · exact s.sc.se.isLt

/-- The symbols of a sequential block, or of a first scan's band, agree with those on the block held aside. -/
theorem runSymbols_pass {s : State} {a : Address} {old : Block} {b : OpenBlock} (hold : s.block? a = some old) (haddr : b.addr = a)
    (hstage : b.stage = .ac) (hm : ¬ b.mode = .refine) (hk : b.k ≤ s.bandEnd b) {n : Nat} (hn : 64 ≤ n) (blk : Block) :
    Agrees (fun blk' t => ((), t.held a blk' none)) (runSymbols n (s.held a blk (some b)))
      (symbolsAside (vget s.arena.acTables (s.fr.compAt a.c).ta.toNat none) (s.bandEnd b)
        (passStep b.mode (s.bandEnd b) s.sc.al.toNat) 64 b.k blk s) := by
  have hstop := bandEnd_lt s b
  refine runSymbols_aside haddr hstage (fun {t k} blk' rs ht _ => ?_) (passStep_stays _ _ _) passStep_next blk (aside_chain.refl s) hk
    (by omega) (by omega)
  have hstep := passStep_agrees (b := { b with k := k }) ((ht.block? a).trans hold) haddr hm blk' rs
  rw [ht.bandEnd, ht.1] at hstep
  exact hstep

/-! ### The DC symbol (R301) -/

/-- The shifted DC value of a category: the extra bits, the prediction, the shift by AL. -/
def dcShifted (c t al : Nat) : Act Int := do
  let v ← receive t
  let val ← predictDc c (extend v t)
  checked32 (val * 2 ^ al)

/-- DecodeDC with the component's table and AL. -/
def dcSymbol (c : Nat) (table : Option HuffTable) (al : Nat) : Act Int := do
  let t ← decodeHuff table
  if t.toNat ≥ 16 then raise .formatError else dcShifted c t.toNat al

theorem ruleDecodeDc_eq (c : Nat) (s : State) :
    Rule.decodeDc c s = dcSymbol c (vget s.arena.dcTables (s.fr.compAt c).td.toNat none) s.sc.al.toNat s := by
  simp only [Rule.decodeDc, dcSymbol, act_bind, act_get]
  cases ht : decodeHuff (vget s.arena.dcTables (s.fr.compAt c).td.toNat none) s with
  | error e => rfl
  | ok p =>
    obtain ⟨t, u⟩ := p
    dsimp only
    by_cases hcat : t.toNat ≥ 16
    · rw [if_pos hcat, if_pos hcat]
    rw [if_neg hcat, if_neg hcat, dcShifted, act_bind, act_bind]
    cases hv : receive t.toNat u with
    | error e => rfl
    | ok p =>
      obtain ⟨v, w⟩ := p
      have hw := aside_chain.trans ((aside_of_reads (reads_decodeHuff _) s).1 _ _ ht) ((aside_of_reads (reads_receive _) u).1 _ _ hv)
      simp only [act_bind, act_get, predictDc, ← hw.1]
      by_cases hd : w.fr.isDifferential = true
      · simp only [hd, if_true]
      · simp only [if_neg hd, act_bind, act_update, act_pure]
        cases checked32 (vget w.pr.pred c 0 + extend v t.toNat) w <;> rfl

theorem aside_predictDc (c : Nat) (diff : Int) : Stays Aside (predictDc c diff) := by
  refine stays_bind aside_chain (stays_get aside_chain) fun _ => stays_ite (aside_checked32 _) ?_
  exact stays_bind aside_chain (aside_checked32 _) fun _ => stays_bind aside_chain (stays_update fun _ => ⟨rfl, rfl, rfl, rfl⟩) fun _ =>
    stays_pure aside_chain _

theorem aside_dcShifted (c t al : Nat) : Stays Aside (dcShifted c t al) :=
  stays_bind aside_chain (aside_of_reads (reads_receive _)) fun _ => stays_bind aside_chain (aside_predictDc _ _) fun _ =>
    aside_checked32 _

theorem aside_ruleDecodeDc {c : Nat} {s t : State} {v : Int} (h : Rule.decodeDc c s = .ok (v, t)) : Aside s t := by
  rw [ruleDecodeDc_eq] at h
  refine (stays_bind aside_chain (aside_of_reads (reads_decodeHuff _)) (fun _ => ?_) s).1 _ _ h
  exact stays_ite (stays_raise aside_chain _) (aside_dcShifted _ _ _)

section
variable {q : Seq → Seq} {pl : Vector (Option Plane) 4 → Vector (Option Plane) 4}

theorem oblivious_predictDc (c : Nat) (diff : Int) : Oblivious (·.touched q pl id) (predictDc c diff) :=
  oblivious_read (fun _ => rfl) fun _ => oblivious_ite (oblivious_checked32 _) (oblivious_bind (oblivious_checked32 _) fun _ =>
    oblivious_bind (oblivious_update fun _ => rfl) fun _ => oblivious_pure _)

end

/-- A DC symbol is a category below 16 (R153). -/
theorem decodeInstr_dc (sym : Byte) :
    decodeInstr .symDc [sym] = if sym.toNat ≥ 16 then none else some (.dcCategory (sym.setWidth 4)) := by
  by_cases h : sym < 0x10
  · have hcat : decodeSymDc sym = .ok (.dcCategory (sym.setWidth 4)) := if_pos h
    have hlt : ¬ sym.toNat ≥ 16 := Nat.not_le.2 h
    rw [decodeInstr, decode, hcat, if_neg hlt]
    rfl
  · have hcat : decodeSymDc sym = .error .categoryTooLarge := if_neg h
    have hge : sym.toNat ≥ 16 := Nat.le_of_not_lt h
    rw [decodeInstr, decode, hcat, if_pos hge]
    rfl

/-- The DC symbol's meaning in the plane agrees with the value held aside; a sequential block goes on with its AC symbols. -/
theorem dcCategory_agrees {s : State} {a : Address} {old : Block} {b : OpenBlock} (hold : s.block? a = some old) (haddr : b.addr = a)
    (blk : Block) (t : Nat) :
    Agrees (fun v u => ((), u.held a (vset blk 0 v) (if b.mode = .seq then some { b with k := 1, stage := .ac } else none)))
      (dcCategoryAct t (s.held a blk (some b))) (dcShifted a.c t s.sc.al.toNat s) := by
  subst haddr
  rw [dcCategoryAct, act_bind, act_theBlock_held, dcShifted]
  refine agrees_bind (agrees_oblivious (oblivious_receive t)) fun v u hu => ?_
  have hu' := (aside_of_reads (reads_receive t) s).1 _ _ hu
  refine agrees_bind (agrees_oblivious (oblivious_predictDc _ _)) fun val w hw => ?_
  have hw' := aside_chain.trans hu' ((aside_predictDc _ _ u).1 _ _ hw)
  rw [← bind_pure (checked32 _), ← hw'.1]
  refine agrees_bind (storeShifted_agrees ((hw'.block? b.addr).trans hold) blk (some b) 0 val) fun x y _ => ?_
  by_cases hseq : b.mode = .seq
  · simp only [if_pos hseq]
    exact .ok x y
  · simp only [if_neg hseq]
    exact .ok x y

/-- A DC symbol in the plane agrees with DecodeDC, up to what comes after it: the AC symbols of a sequential block, or nothing. -/
theorem runSymbols_dc {s : State} {a : Address} {old : Block} {b : OpenBlock} (hold : s.block? a = some old) (haddr : b.addr = a)
    (hstage : b.stage = .dc) (hm : ¬ b.mode = .lossless) (n : Nat) (blk : Block) {α : Type} {g : α → State → Unit × State}
    {k : Int → Act α} (hk : ∀ v t, Aside s t → Agrees g
      ((if b.mode = .seq then runSymbols n else pure ())
        (t.held a (vset blk 0 v) (if b.mode = .seq then some { b with k := 1, stage := .ac } else none))) (k v t)) :
    Agrees g (runSymbols (n + 1) (s.held a blk (some b)))
      ((dcSymbol a.c (vget s.arena.dcTables (s.fr.compAt a.c).td.toNat none) s.sc.al.toNat >>= k) s) := by
  let u := s.held a blk (some b)
  have hspace : b.symbolSpace = .symDc := by simp only [OpenBlock.symbolSpace, hstage, if_neg hm]
  have htable : u.symbolTable b = vget s.arena.dcTables (s.fr.compAt a.c).td.toNat none := by
    simp only [State.symbolTable, hstage, haddr]
    rfl
  have hmodel : runSymbols (n + 1) u = (decodeHuff (vget s.arena.dcTables (s.fr.compAt a.c).td.toNat none) >>= fun t =>
      (if t.toNat ≥ 16 then raise .formatError else dcCategoryAct (t.setWidth 4).toNat) >>= fun _ =>
      get >>= fun s => if s.sq.block.isSome then runSymbols n else pure ()) u := by
    simp only [runSymbols, fetchSymbol, act_bind, act_theBlock (s := u) (b := b) rfl, act_get, htable, hspace, act_orFormatError,
      decodeInstr_dc]
    cases decodeHuff (vget s.arena.dcTables (s.fr.compAt a.c).td.toNat none) u with
    | error e => rfl
    | ok p =>
      dsimp only
      by_cases hcat : p.1.toNat ≥ 16
      · simp only [if_pos hcat, act_raise]
      · simp only [if_neg hcat, symbolAct]
  rw [hmodel, dcSymbol, bind_assoc]
  refine agrees_bind (agrees_oblivious (oblivious_decodeHuff _)) fun t w hw => ?_
  have hw' := (aside_of_reads (reads_decodeHuff _) s).1 _ _ hw
  by_cases hcat : t.toNat ≥ 16
  · simp only [if_pos hcat]
    exact .raise (failEntry_held _ _ _ _ _)
  have hwidth : (t.setWidth 4).toNat = t.toNat := by
    rw [BitVec.toNat_setWidth]
    exact Nat.mod_eq_of_lt (Nat.not_le.1 hcat)
  simp only [if_neg hcat, hwidth, ← hw'.1]
  refine agrees_bind (dcCategory_agrees ((hw'.block? a).trans hold) haddr blk t.toNat) fun v y hy => ?_
  have hnext := hk v y (aside_chain.trans hw' ((aside_dcShifted _ _ _ w).1 _ _ hy))
  rw [act_bind, act_get]
  by_cases hseq : b.mode = .seq
  · simp only [if_pos hseq] at hnext ⊢
    exact hnext
  · simp only [if_neg hseq] at hnext ⊢
    exact hnext

/-! ### HUF_SEQ, HUF_DC_FIRST and HUF_AC_FIRST (R300, R310, R314) -/

/-- The block at an address is decoded so: opened, its symbols read. -/
theorem act_openAndRun (b : OpenBlock) (s : State) :
    (setOpen b >>= fun _ => runSymbols symbolBound) s = runSymbols symbolBound (s.opened (some b)) := rfl

section
variable {s : State} {a : Address} {blk : Block} (hblk : s.block? a = some blk)
include hblk

theorem hufSeq_agrees :
    Agrees (fun _ t => ((), t)) (runSymbols symbolBound (s.opened (some ⟨.seq, a, 0, .dc⟩))) (Rule.hufSeq a s) := by
  let acTable := vget s.arena.acTables (s.fr.compAt a.c).ta.toNat none
  have hrule : Rule.hufSeq a s = ((dcSymbol a.c (vget s.arena.dcTables (s.fr.compAt a.c).td.toNat none) s.sc.al.toNat >>= fun v =>
      symbolsAside acTable 63 (passStep .seq 63 s.sc.al.toNat) 64 1 (vset blk 0 v)) >>= storeAndClose a) s := by
    rw [bind_assoc, act_bind, ← ruleDecodeDc_eq, Rule.hufSeq, act_bind, act_getBlock hblk]
    simp only [act_bind, act_get, acSeq_eq _ s.sc.al.toNat]
    cases hv : Rule.decodeDc a.c s with
    | error e => rfl
    | ok p =>
      have hp := aside_ruleDecodeDc hv
      dsimp only
      rw [hp.2.2.1, hp.2.1]
      rfl
  rw [hrule, ← held_self hblk]
  refine agrees_storeAndClose (runSymbols_dc hblk rfl rfl (by simp) 65 blk fun v t ht => ?_)
  simp only [if_true]
  have hpass := runSymbols_pass (b := ⟨.seq, a, 1, .ac⟩) ((ht.block? a).trans hblk) rfl rfl (by simp) (by decide : 1 ≤ 63) (n := 65)
    (by decide) (vset blk 0 v)
  rw [ht.2.2.1, ht.2.1, ht.1] at hpass
  exact hpass

theorem hufDcFirst_agrees :
    Agrees (fun _ t => ((), t)) (runSymbols symbolBound (s.opened (some ⟨.first, a, 0, .dc⟩))) (Rule.hufDcFirst a s) := by
  have hrule : Rule.hufDcFirst a s = ((dcSymbol a.c (vget s.arena.dcTables (s.fr.compAt a.c).td.toNat none) s.sc.al.toNat >>= fun v =>
      pure (vset blk 0 v)) >>= storeAndClose a) s := by
    simp only [act_bind, ← ruleDecodeDc_eq, Rule.hufDcFirst, act_getBlock hblk]
    cases Rule.decodeDc a.c s <;> rfl
  rw [hrule, ← held_self hblk]
  refine agrees_storeAndClose (runSymbols_dc hblk rfl rfl (by simp) 65 blk fun v t _ => ?_)
  exact .ok (vset blk 0 v) t

/-- A band of symbols in the plane agrees with those held aside, also where it is empty. -/
theorem runBand_agrees {b : OpenBlock} {m : Act Block}
    (hpast : s.bandEnd b < b.k → m s = .ok (blk, s))
    (hin : b.k ≤ s.bandEnd b →
      Agrees (fun blk t => ((), t.held a blk none)) (runSymbols symbolBound (s.opened (some b))) (m s)) :
    Agrees (fun _ t => ((), t)) (runBand b s) ((m >>= storeAndClose a) s) := by
  refine agrees_storeAndClose ?_
  rw [runBand, act_bind, act_moveTo, OpenBlock.movedTo]
  by_cases hk : b.k ≤ s.bandEnd b
  · rw [if_pos hk]
    exact hin hk
  · rw [if_neg hk, hpast (Nat.not_le.1 hk)]
    have hclosed : ({ s with sq := { s.sq with block := none } } : State) = s.held a blk none := (held_self hblk none).symm
    dsimp only
    rw [hclosed]
    exact .ok blk s

theorem hufAcFirst_agrees (hrun : ¬ s.pr.eobrun > 0) :
    Agrees (fun _ t => ((), t)) (runBand ⟨.first, a, s.sc.ss.toNat, .ac⟩ s) (Rule.hufAcFirst a s) := by
  have hrule : Rule.hufAcFirst a s = (symbolsAside (vget s.arena.acTables (s.fr.compAt a.c).ta.toNat none) s.sc.se.toNat
      (passStep .first s.sc.se.toNat s.sc.al.toNat) 64 s.sc.ss.toNat blk >>= storeAndClose a) s := by
    simp only [Rule.hufAcFirst, act_bind, act_get, if_neg hrun, act_getBlock hblk, acFirst_eq]
    rfl
  rw [hrule]
  refine runBand_agrees hblk (fun hk => congrFun (symbolsAside_past hk 64 blk) s) fun hk => ?_
  rw [← held_self hblk]
  exact runSymbols_pass hblk rfl rfl (by simp) hk (by decide) blk

end

/-- Settles O41: the DC symbol, then the AC symbols, in the plane and held aside. -/
theorem hufSeqRoutine : Obligations.HufSeqRoutine := by
  intro d x s e blk he _ hblk
  have hmodel : hufSeqAct s = runSymbols symbolBound (s.opened (some ⟨.seq, s.addressOf e, 0, .dc⟩)) := by
    rw [hufSeqAct, act_bind, act_currentAddress he]
    rfl
  have heq : exec (.hufSeq d x) s = runAct (Rule.hufSeq (s.addressOf e)) s :=
    runAct_of_agrees (m := hufSeqAct) (hmodel ▸ hufSeq_agrees hblk)
  exact ⟨heq, fun t ht => heq.trans (runAct_ok ht)⟩

/-! ### The loops of a refinement, held aside (R295, R316) -/

theorem reads_ruleCorrect (p1 : Int) (blk : Block) (k : Nat) : Stays Reads (Rule.correct p1 blk k) :=
  stays_bind reads_chain reads_nextBit fun _ => stays_pure reads_chain _

theorem reads_ruleEobPass (p1 : Int) (se : Nat) : ∀ fuel k blk, Stays Reads (Rule.eobPass p1 se fuel k blk)
  | 0, _, _ => stays_pure reads_chain _
  | fuel + 1, k, blk => by
    refine stays_ite (stays_ite ?_ (reads_ruleEobPass p1 se fuel _ _)) (stays_pure reads_chain _)
    exact stays_bind reads_chain (reads_ruleCorrect _ _ _) fun _ => reads_ruleEobPass p1 se fuel _ _

theorem reads_skipZeros (p1 : Int) (se : Nat) : ∀ fuel k r blk, Stays Reads (Rule.skipZeros p1 se fuel k r blk)
  | 0, _, _, _ => stays_pure reads_chain _
  | fuel + 1, k, r, blk => by
    refine stays_ite (stays_ite ?_ (stays_ite (stays_pure reads_chain _) (reads_skipZeros p1 se fuel _ _ _))) (stays_pure reads_chain _)
    exact stays_bind reads_chain (reads_ruleCorrect _ _ _) fun _ => reads_skipZeros p1 se fuel _ _ _

/-- Skipping goes forward. -/
theorem skipZeros_le {p1 : Int} {se : Nat} : ∀ {fuel k r : Nat} {blk : Block} {p : Nat × Block} {s t : State},
    Rule.skipZeros p1 se fuel k r blk s = .ok (p, t) → k ≤ p.1
  | 0, k, r, blk, p, s, t, h => by
    cases h
    exact le_refl k
  | fuel + 1, k, r, blk, p, s, t, h => by
    rw [Rule.skipZeros] at h
    split at h
    · split at h
      · obtain ⟨blk', u, -, h⟩ := act_bind_ok h
        exact (Nat.le_succ k).trans (skipZeros_le h)
      · split at h
        · cases h
          exact le_refl k
        · exact (Nat.le_succ k).trans (skipZeros_le h)
    · cases h
      exact le_refl k

section
variable {a : Address} {old : Block} {o : Option OpenBlock}

theorem correct_agrees {s : State} (hold : s.block? a = some old) (blk : Block) (k : Nat) :
    Agrees (fun blk' t => ((), t.held a blk' o)) (correct a k (s.held a blk o)) (Rule.correct (2 ^ s.sc.al.toNat) blk k s) := by
  refine agrees_bind (agrees_oblivious oblivious_nextBit) fun bit t ht => ?_
  have ht' := (aside_of_reads reads_nextBit s).1 _ _ ht
  have hsc : (t.held a blk o).sc = s.sc := ht'.1
  have hold' := (ht'.block? a).trans hold
  simp only [act_bind, act_get, act_getCoeff_held hold', hsc]
  by_cases hset : (bit && vget blk k 0 / 2 ^ s.sc.al.toNat % 2 == 0) = true
  · simp only [if_pos hset, act_setCoeff_held hold']
    exact .ok _ t
  · simp only [if_neg hset]
    exact .ok blk t

theorem eobPass_agrees : ∀ {fuel k : Nat} {s : State} (blk : Block), s.block? a = some old →
    Agrees (fun blk' t => ((), t.held a blk' o)) (eobPass a fuel k (s.held a blk o))
      (Rule.eobPass (2 ^ s.sc.al.toNat) s.sc.se.toNat fuel k blk s)
  | 0, k, s, blk, _ => .ok blk s
  | fuel + 1, k, s, blk, hold => by
    have hsc : (s.held a blk o).sc = s.sc := rfl
    simp only [eobPass, Rule.eobPass, act_bind, act_get, hsc]
    by_cases hk : k ≤ s.sc.se.toNat
    · simp only [if_pos hk, act_bind, act_getCoeff_held hold]
      by_cases hv : vget blk k 0 ≠ 0
      · rw [if_pos hv, if_pos hv]
        refine agrees_bind (correct_agrees hold blk k) fun blk' t ht => ?_
        have ht' := (aside_of_reads (reads_ruleCorrect _ _ _) s).1 _ _ ht
        rw [← ht'.1]
        exact eobPass_agrees blk' ((ht'.block? a).trans hold)
      · rw [if_neg hv, if_neg hv]
        exact eobPass_agrees blk hold
    · simp only [if_neg hk]
      exact .ok blk s

theorem refineSkip_agrees : ∀ {fuel k r : Nat} {s : State} (blk : Block), s.block? a = some old →
    Agrees (fun p t => (p.1, t.held a p.2 o)) (refineSkip a fuel k r (s.held a blk o))
      (Rule.skipZeros (2 ^ s.sc.al.toNat) s.sc.se.toNat fuel k r blk s)
  | 0, k, r, s, blk, _ => .ok (k, blk) s
  | fuel + 1, k, r, s, blk, hold => by
    have hsc : (s.held a blk o).sc = s.sc := rfl
    simp only [refineSkip, Rule.skipZeros, act_bind, act_get, hsc]
    by_cases hk : k ≤ s.sc.se.toNat
    · simp only [if_pos hk, act_bind, act_getCoeff_held hold]
      by_cases hv : vget blk k 0 ≠ 0
      · rw [if_pos hv, if_pos hv]
        refine agrees_bind (correct_agrees hold blk k) fun blk' t ht => ?_
        have ht' := (aside_of_reads (reads_ruleCorrect _ _ _) s).1 _ _ ht
        rw [← ht'.1]
        exact refineSkip_agrees blk' ((ht'.block? a).trans hold)
      · rw [if_neg hv, if_neg hv]
        by_cases hr : r = 0
        · simp only [if_pos hr]
          exact .ok (k, blk) s
        · simp only [if_neg hr]
          exact refineSkip_agrees blk hold
    · simp only [if_neg hk]
      exact .ok (k, blk) s

end

/-! ### The symbols of a refinement (R316) -/

/-- What a symbol `rs` does at position `k` of a refinement band. -/
def refineStep (p1 : Int) (se k : Nat) (blk : Block) (rs : Byte) : Act (Option Nat × Block) :=
  let r := rs.toNat / 16
  let sz := rs.toNat % 16
  if sz = 0 then
    if r = 15 then do
      let p ← Rule.skipZeros p1 se 64 k 15 blk
      pure (some (p.1 + 1), p.2)
    else do
      let n ← receive r
      setEobrun (2 ^ r + n)
      let blk ← Rule.eobPass p1 se 64 k blk
      setEobrun (2 ^ r + n - 1)
      pure (none, blk)
  else if sz = 1 then do
    let bit ← nextBit
    let p ← Rule.skipZeros p1 se 64 k r blk
    if p.1 > se then raise .formatError else pure (some (p.1 + 1), vset p.2 p.1 (if bit then p1 else -p1))
  else raise .formatError

/-- The end of a refinement band (R316): inside an end-of-band run the rest is corrected and the run counted down. -/
def refineEnd (p1 : Int) (se : Nat) (p : Nat × Block) : Act Block := do
  let s ← get
  if s.pr.eobrun > 0 then
    let blk ← Rule.eobPass p1 se 64 p.1 p.2
    setEobrun (s.pr.eobrun - 1)
    pure blk
  else pure p.2

theorem refineStep_stays (p1 : Int) (se k : Nat) (blk : Block) (rs : Byte) : Stays Aside (refineStep p1 se k blk rs) := by
  have hpure (x : Option Nat × Block) : Stays Aside (pure x) := stays_pure aside_chain x
  have hraise : Stays Aside (raise .formatError : Act (Option Nat × Block)) := stays_raise aside_chain _
  have hskip (k r : Nat) (blk : Block) := aside_of_reads (reads_skipZeros p1 se 64 k r blk)
  refine stays_ite (stays_ite (stays_bind aside_chain (hskip _ _ _) fun _ => hpure _) ?_) (stays_ite ?_ hraise)
  · refine stays_bind aside_chain (aside_of_reads (reads_receive _)) fun n => stays_bind aside_chain (aside_setEobrun _) fun _ => ?_
    exact stays_bind aside_chain (aside_of_reads (reads_ruleEobPass _ _ _ _ _)) fun _ => stays_bind aside_chain (aside_setEobrun _)
      fun _ => hpure _
  · exact stays_bind aside_chain (aside_of_reads reads_nextBit) fun _ => stays_bind aside_chain (hskip _ _ _) fun _ =>
      stays_ite hraise (hpure _)

theorem refineStep_next {p1 : Int} {se k k' : Nat} {blk blk' : Block} {rs : Byte} {s t : State}
    (h : refineStep p1 se k blk rs s = .ok ((some k', blk'), t)) : k < k' := by
  unfold refineStep at h
  split at h
  · split at h
    · obtain ⟨p, u, hp, h⟩ := act_bind_ok h
      cases h
      exact Nat.lt_succ_of_le (skipZeros_le hp)
    · obtain ⟨n, u, -, h⟩ := act_bind_ok h
      obtain ⟨-, u', -, h⟩ := act_bind_ok h
      obtain ⟨blk₁, u'', -, h⟩ := act_bind_ok h
      cases h
  · split at h
    · obtain ⟨bit, u, -, h⟩ := act_bind_ok h
      obtain ⟨p, u', hp, h⟩ := act_bind_ok h
      split at h <;> cases h
      exact Nat.lt_succ_of_le (skipZeros_le hp)
    · cases h

theorem pr_of_reads {α : Type} {m : Act α} (hm : Stays Reads m) {s t : State} {x : α} (h : m s = .ok (x, t)) : t.pr = s.pr := by
  rw [(hm s).1 x t h]

theorem act_bind_congr {α β : Type} {m : Act α} {f g : α → Act β} {s : State} (h : ∀ x t, m s = .ok (x, t) → f x t = g x t) :
    (m >>= f) s = (m >>= g) s := by
  rw [act_bind, act_bind]
  cases hm : m s with
  | error e => rfl
  | ok p => exact h p.1 p.2 hm

/-- Behind an action that only reads, no end-of-band run is pending where none was. -/
theorem reads_bind_congr {α β : Type} {m : Act α} {f g : α → Act β} {s : State} (hm : Stays Reads m) (hs : s.pr.eobrun = 0)
    (h : ∀ x t, t.pr.eobrun = 0 → f x t = g x t) : (m >>= f) s = (m >>= g) s :=
  act_bind_congr fun x t hx => h x t ((congrArg Pred.eobrun (pr_of_reads hm hx)).trans hs)

theorem refineEnd_idle (p1 : Int) (se : Nat) (p : Nat × Block) {s : State} (hs : s.pr.eobrun = 0) :
    refineEnd p1 se p s = .ok (p.2, s) := by
  simp only [refineEnd, act_bind, act_get, hs, gt_iff_lt, lt_irrefl, if_false]
  rfl

/-- The end of the band that an end-of-band symbol sets the run for. -/
theorem refineEnd_started (p1 : Int) (se n : Nat) (p : Nat × Block) (hn : 0 < n) (s : State) :
    (setEobrun n >>= fun _ => refineEnd p1 se p) s = (setEobrun n >>= fun _ => Rule.eobPass p1 se 64 p.1 p.2 >>= fun blk =>
      setEobrun (n - 1) >>= fun _ => pure blk) s := by
  simp only [act_bind, act_setEobrun, refineEnd, act_get, if_pos hn]

/-- With no run pending, the symbols and the end of a refinement band are the symbols one by one. -/
theorem refineSymbols_eq (table : Option HuffTable) (p1 : Int) (se : Nat) : ∀ fuel k blk (s : State), s.pr.eobrun = 0 →
    (Rule.refineSymbols table p1 se fuel k blk >>= refineEnd p1 se) s = symbolsAside table se (refineStep p1 se) fuel k blk s
  | 0, k, blk, s, h => refineEnd_idle p1 se (k, blk) h
  | fuel + 1, k, blk, s, h => by
    rw [Rule.refineSymbols, symbolsAside]
    by_cases hk : k ≤ se
    swap
    · rw [if_neg hk, if_neg hk]
      exact refineEnd_idle p1 se (k, blk) h
    rw [if_pos hk, if_pos hk, bind_assoc]
    refine reads_bind_congr (reads_decodeHuff _) h fun rs t ht => ?_
    simp only [refineStep]
    by_cases h0 : rs.toNat % 16 = 0
    · have h1 : ¬ rs.toNat % 16 = 1 := by omega
      rw [if_neg h1, if_pos h0, if_pos h0]
      by_cases h15 : rs.toNat / 16 = 15
      · rw [if_neg (Nat.not_lt.2 h15.ge), if_pos h15, bind_assoc, bind_assoc]
        exact reads_bind_congr (reads_skipZeros _ _ _ _ _ _) ht fun p u hu => refineSymbols_eq table p1 se fuel _ _ u hu
      · have := rs.isLt
        rw [if_pos (by omega), if_neg h15]
        simp only [bind_assoc, pure_bind]
        exact reads_bind_congr (reads_receive _) ht fun n u _ =>
          refineEnd_started p1 se _ (k, blk) (Nat.add_pos_left (Nat.two_pow_pos _) n) u
    · rw [if_neg h0, if_neg h0]
      by_cases h1 : rs.toNat % 16 = 1
      · rw [if_pos h1, if_pos h1]
        simp only [bind_assoc]
        refine reads_bind_congr reads_nextBit ht fun bit u hu => reads_bind_congr (reads_skipZeros _ _ _ _ _ _) hu fun p w hw => ?_
        by_cases hpast : p.1 > se
        · rw [if_pos hpast, if_pos hpast, raise_bind, raise_bind]
        · rw [if_neg hpast, if_neg hpast]
          exact refineSymbols_eq table p1 se fuel _ _ w hw
      · rw [if_neg h1, if_neg h1, raise_bind, raise_bind]

theorem bandEnd_refine {s : State} {b : OpenBlock} (hm : b.mode = .refine) : s.bandEnd b = s.sc.se.toNat :=
  if_neg (by rw [hm]; decide)

section
variable {s : State} {a : Address} {old : Block} {b : OpenBlock} (hold : s.block? a = some old) (haddr : b.addr = a)
  (hm : b.mode = .refine)
include hold haddr hm

/-- Behind the zeros that are skipped the block moves on. -/
theorem zrl_refine_agrees (blk : Block) :
    Agrees (fun next t => ((), t.held a next.2 (b.after s.sc.se.toNat next.1))) (zrlAct (s.held a blk (some b)))
      ((Rule.skipZeros (2 ^ s.sc.al.toNat) s.sc.se.toNat 64 b.k 15 blk >>= fun p => pure (some (p.1 + 1), p.2)) s) := by
  subst haddr
  have hmodel : zrlAct (s.held b.addr blk (some b)) =
      (refineSkip b.addr 64 b.k 15 >>= fun k => moveTo b (k + 1)) (s.held b.addr blk (some b)) := by
    simp only [zrlAct, act_bind, act_theBlock_held, act_get, if_pos hm]
  rw [hmodel]
  refine agrees_bind (refineSkip_agrees blk hold) fun p t ht => ?_
  have ht' := (aside_of_reads (reads_skipZeros _ _ _ _ _ _) s).1 _ _ ht
  dsimp only
  rw [act_moveTo_held, ht'.bandEnd, bandEnd_refine hm]
  exact .ok (some (p.1 + 1), p.2) t

/-- An end-of-band symbol sets the run, corrects the rest of the band and counts the run down. -/
theorem endOfBand_refine_agrees (blk : Block) (r : Nat) :
    Agrees (fun next t => ((), t.held a next.2 (b.after s.sc.se.toNat next.1))) (endOfBandAct r (s.held a blk (some b)))
      ((receive r >>= fun n => setEobrun (2 ^ r + n) >>= fun _ =>
        Rule.eobPass (2 ^ s.sc.al.toNat) s.sc.se.toNat 64 b.k blk >>= fun blk => setEobrun (2 ^ r + n - 1) >>= fun _ =>
        pure ((none, blk) : Option Nat × Block)) s) := by
  subst haddr
  have hseq : ¬ b.mode = .seq := by rw [hm]; decide
  have hmodel : endOfBandAct r (s.held b.addr blk (some b)) = (receive r >>= fun v => setEobrun (2 ^ r + v) >>= fun _ =>
      eobPass b.addr 64 b.k >>= fun _ => (get >>= fun s => setEobrun (s.pr.eobrun - 1)) >>= fun _ => closeBlock)
        (s.held b.addr blk (some b)) := by
    rw [endOfBandAct, act_bind, act_theBlock_held]
    simp only [if_neg hseq, if_pos hm, eobBlock, bind_assoc]
  rw [hmodel]
  refine agrees_bind (agrees_oblivious (oblivious_receive r)) fun n t ht => ?_
  have ht' := (aside_of_reads (reads_receive r) s).1 _ _ ht
  refine agrees_bind (agrees_oblivious (oblivious_setEobrun _)) fun _ u hu => ?_
  have hu' := aside_chain.trans ht' ((aside_setEobrun _ t).1 _ _ hu)
  rw [← hu'.1]
  refine agrees_bind (eobPass_agrees blk ((hu'.block? b.addr).trans hold)) fun blk' w hw => ?_
  have hrun : w.pr.eobrun = 2 ^ r + n := by
    rw [pr_of_reads (reads_ruleEobPass _ _ _ _ _) hw]
    cases hu
    rfl
  rw [← hrun]
  exact .ok (none, blk') { w with pr := { w.pr with eobrun := w.pr.eobrun - 1 } }

/-- A coefficient of size 1 is placed behind the zeros that are skipped, where the band has a place for it. -/
theorem coeff_refine_agrees (blk : Block) (r : Nat) :
    Agrees (fun next t => ((), t.held a next.2 (b.after s.sc.se.toNat next.1))) (coeffAct r 1 (s.held a blk (some b)))
      ((nextBit >>= fun bit => Rule.skipZeros (2 ^ s.sc.al.toNat) s.sc.se.toNat 64 b.k r blk >>= fun p =>
        if p.1 > s.sc.se.toNat then raise .formatError
        else pure (some (p.1 + 1), vset p.2 p.1 (if bit then 2 ^ s.sc.al.toNat else -2 ^ s.sc.al.toNat))) s) := by
  subst haddr
  have hmodel : coeffAct r 1 (s.held b.addr blk (some b)) = (nextBit >>= fun bit => refineSkip b.addr 64 b.k r >>= fun k =>
      require (decide (k ≤ s.sc.se.toNat)) >>= fun _ =>
        setCoeff b.addr k (if bit then 2 ^ s.sc.al.toNat else -2 ^ s.sc.al.toNat) >>= fun _ => moveTo b (k + 1))
        (s.held b.addr blk (some b)) := by
    have hend : (s.held b.addr blk (some b)).bandEnd b = s.sc.se.toNat := bandEnd_refine hm
    rw [coeffAct, act_bind, act_theBlock_held]
    dsimp only
    rw [act_bind, act_get]
    simp only [if_pos hm, hend]
    rfl
  rw [hmodel]
  refine agrees_bind (agrees_oblivious oblivious_nextBit) fun bit t ht => ?_
  have ht' := (aside_of_reads reads_nextBit s).1 _ _ ht
  rw [← ht'.1]
  refine agrees_bind (refineSkip_agrees blk ((ht'.block? b.addr).trans hold)) fun p u hu => ?_
  have hu' := aside_chain.trans ht' ((aside_of_reads (reads_skipZeros _ _ _ _ _ _) t).1 _ _ hu)
  by_cases hk : p.1 > t.sc.se.toNat
  · have hpast : ¬ p.1 ≤ t.sc.se.toNat := Nat.not_le.2 hk
    rw [if_pos hk, act_bind, act_require, decide_eq_false hpast]
    exact .raise (failEntry_held _ _ _ _ _)
  · rw [if_neg hk, act_bind, act_require, decide_eq_true (Nat.not_lt.1 hk)]
    simp only [if_true, act_bind, act_setCoeff_held ((hu'.block? b.addr).trans hold), act_moveTo_held, hu'.bandEnd, bandEnd_refine hm]
    rw [← ht'.1]
    exact .ok (some (p.1 + 1), _) u

theorem refineStep_agrees (blk : Block) (rs : Byte) :
    Agrees (fun next t => ((), t.held a next.2 (b.after s.sc.se.toNat next.1))) (symbolAct (decodeSymAc rs) (s.held a blk (some b)))
      (refineStep (2 ^ s.sc.al.toNat) s.sc.se.toNat b.k blk rs s) := by
  rw [symbolAct_decodeSymAc, refineStep]
  by_cases h0 : rs.toNat % 16 = 0
  · rw [if_pos h0, if_pos h0]
    by_cases h15 : rs.toNat / 16 = 15
    · rw [if_pos h15, if_pos h15]
      exact zrl_refine_agrees hold haddr hm blk
    · rw [if_neg h15, if_neg h15]
      exact endOfBand_refine_agrees hold haddr hm blk _
  · rw [if_neg h0, if_neg h0]
    by_cases h1 : rs.toNat % 16 = 1
    · rw [if_pos h1, h1]
      exact coeff_refine_agrees hold haddr hm blk _
    · rw [if_neg h1, coeff_category (s := s.held a blk (some b)) rfl hm _ h1]
      exact .raise (failEntry_held _ _ _ _ _)

end

/-- The symbols of a refinement band agree with those on the block held aside. -/
theorem runSymbols_refine {s : State} {a : Address} {old : Block} {b : OpenBlock} (hold : s.block? a = some old) (haddr : b.addr = a)
    (hstage : b.stage = .ac) (hm : b.mode = .refine) (hk : b.k ≤ s.sc.se.toNat) {n : Nat} (hn : 64 ≤ n) (blk : Block) :
    Agrees (fun blk' t => ((), t.held a blk' none)) (runSymbols n (s.held a blk (some b)))
      (symbolsAside (vget s.arena.acTables (s.fr.compAt a.c).ta.toNat none) s.sc.se.toNat
        (refineStep (2 ^ s.sc.al.toNat) s.sc.se.toNat) 64 b.k blk s) := by
  have hse := s.sc.se.isLt
  refine runSymbols_aside haddr hstage (fun {t k} blk' rs ht _ => ?_) (refineStep_stays _ _) refineStep_next blk (aside_chain.refl s) hk
    (by omega) (by omega)
  have hstep := refineStep_agrees (b := { b with k := k }) ((ht.block? a).trans hold) haddr hm blk' rs
  rw [ht.1] at hstep
  exact hstep

section
variable {s : State} {a : Address} {blk : Block} (hblk : s.block? a = some blk)
include hblk

/-- Outside an end-of-band run: the symbols, then the end of the band. -/
theorem hufAcRefine_agrees (hrun : s.pr.eobrun = 0) :
    Agrees (fun _ t => ((), t)) (runBand ⟨.refine, a, s.sc.ss.toNat, .ac⟩ s) (Rule.hufAcRefine a s) := by
  let table := vget s.arena.acTables (s.fr.compAt a.c).ta.toNat none
  let p1 : Int := 2 ^ s.sc.al.toNat
  have hrule : Rule.hufAcRefine a s =
      ((Rule.refineSymbols table p1 s.sc.se.toNat 64 s.sc.ss.toNat blk >>= refineEnd p1 s.sc.se.toNat) >>= storeAndClose a) s := by
    simp only [Rule.hufAcRefine, act_bind, act_get, act_getBlock hblk, if_pos hrun, refineEnd]
    cases Rule.refineSymbols table p1 s.sc.se.toNat 64 s.sc.ss.toNat blk s with
    | error e => rfl
    | ok p =>
      obtain ⟨⟨k, blk'⟩, t⟩ := p
      dsimp only
      by_cases hpos : t.pr.eobrun > 0
      · simp only [if_pos hpos, act_bind]
        cases Rule.eobPass p1 s.sc.se.toNat 64 k blk' t <;> rfl
      · simp only [if_neg hpos]
        rfl
  rw [hrule]
  refine runBand_agrees hblk (fun hk => ?_) fun hk => ?_
  · rw [refineSymbols_eq _ _ _ _ _ _ _ hrun]
    exact congrFun (symbolsAside_past hk 64 blk) s
  · rw [refineSymbols_eq _ _ _ _ _ _ _ hrun, ← held_self hblk]
    exact runSymbols_refine hblk rfl rfl rfl hk (by decide) blk

/-- Inside an end-of-band run: the band is corrected and the run counted down. -/
theorem hufAcRefine_run_agrees (hrun : s.pr.eobrun > 0) (hnone : s.sq.block = none) :
    Agrees (fun _ t => ((), t)) (eobBlock a s.sc.ss.toNat s) (Rule.hufAcRefine a s) := by
  have hpos : ¬ s.pr.eobrun = 0 := Nat.pos_iff_ne_zero.1 hrun
  have hheld : s = s.held a blk none := by
    rw [held_self hblk, ← hnone]
    rfl
  have hrule : Rule.hufAcRefine a s = (Rule.eobPass (2 ^ s.sc.al.toNat) s.sc.se.toNat 64 s.sc.ss.toNat blk >>= fun blk =>
      setBlock a blk >>= fun _ => setEobrun (s.pr.eobrun - 1) >>= fun _ => closeBlock) s := by
    simp only [Rule.hufAcRefine, act_bind, act_get, act_getBlock hblk, if_neg hpos, act_pure, if_pos hrun]
  rw [hrule]
  have hmodel : eobBlock a s.sc.ss.toNat s = (eobPass a 64 s.sc.ss.toNat >>= fun _ => get >>= fun s => setEobrun (s.pr.eobrun - 1))
      (s.held a blk none) := by
    rw [← hheld]
    rfl
  rw [hmodel]
  refine agrees_bind (eobPass_agrees blk hblk) fun blk' t ht => ?_
  rw [← pr_of_reads (reads_ruleEobPass _ _ _ _ _) ht]
  exact .ok () { t.held a blk' none with pr := { t.pr with eobrun := t.pr.eobrun - 1 } }

end

/-! ### HUF_DC_REFINE (R312) -/

theorem setBitInt_eq (v : Int) (al : Nat) : setBitInt v al = if v / 2 ^ al % 2 = 1 then v else v + 2 ^ al := by
  unfold setBitInt
  rcases Int.emod_two_eq (v / 2 ^ al) with h | h <;> simp [h]

theorem hufDcRefineAct_ok {s u : State} {e : McuEntry} {blk : Block} {bit : Bool} (he : s.sc.mcud[s.sc.entry]? = some e)
    (hblk : s.block? (s.addressOf e) = some blk) (hbit : nextBit s = .ok (bit, u)) :
    hufDcRefineAct s = .ok ((), if bit then u.withBlock (s.addressOf e) (vset blk 0 (setBitInt (vget blk 0 0) s.sc.al.toNat)) else u) := by
  have hu := (aside_of_reads reads_nextBit s).1 _ _ hbit
  have hblk' := (hu.block? (s.addressOf e)).trans hblk
  simp only [hufDcRefineAct, act_bind, act_currentAddress he, hbit, act_get, act_getCoeff hblk', hu.1]
  cases bit
  · rfl
  · exact act_setCoeff hblk' 0 _

/-- Settles O42: each routine is its procedure, in the plane and held aside; the two that count down an end-of-band run by the run. -/
theorem hufProgressiveRoutines : Obligations.HufProgressiveRoutines := by
  refine ⟨fun d s e blk he _ hblk => ?_, fun d s e blk he hnone hblk => ?_⟩
  · have hdc : runAct hufDcFirstAct s = runAct (Rule.hufDcFirst (s.addressOf e)) s := by
      refine runAct_of_agrees ?_
      rw [hufDcFirstAct, act_bind, act_currentAddress he]
      exact hufDcFirst_agrees hblk
    have hrun (h : s.pr.eobrun > 0) : hufAcFirstAct s = setEobrun (s.pr.eobrun - 1) s := by
      simp only [hufAcFirstAct, act_bind, act_currentAddress he, act_get, if_pos h]
    have hac : runAct hufAcFirstAct s = runAct (Rule.hufAcFirst (s.addressOf e)) s := by
      by_cases h : s.pr.eobrun > 0
      · have hrule : Rule.hufAcFirst (s.addressOf e) s = setEobrun (s.pr.eobrun - 1) s := by
          simp only [Rule.hufAcFirst, act_bind, act_get, if_pos h]
        simp only [runAct, hrun h, hrule]
      · refine runAct_of_agrees ?_
        simp only [hufAcFirstAct, act_bind, act_currentAddress he, act_get, if_neg h]
        exact hufAcFirst_agrees hblk h
    exact ⟨hdc, hac, fun t ht => hdc.trans (runAct_ok ht), fun t ht => hac.trans (runAct_ok ht), fun h => runAct_ok (hrun h)⟩
  · have hac : runAct hufAcRefineAct s = runAct (Rule.hufAcRefine (s.addressOf e)) s := by
      refine runAct_of_agrees ?_
      by_cases h : s.pr.eobrun > 0
      · simp only [hufAcRefineAct, act_bind, act_currentAddress he, act_get, if_pos h]
        exact hufAcRefine_run_agrees hblk h hnone
      · simp only [hufAcRefineAct, act_bind, act_currentAddress he, act_get, if_neg h]
        exact hufAcRefine_agrees hblk (Nat.eq_zero_of_not_pos h)
    refine ⟨hac, fun t ht => hac.trans (runAct_ok ht), fun bit u hbit => ?_⟩
    intro v p1
    rw [← setBitInt_eq]
    exact runAct_ok (hufDcRefineAct_ok he hblk hbit)

end Sys2Proof.Machine

namespace Sys2Proof.Machine

/-! ### The category of a value (R155, R497) -/

theorem inCategory_bitLength {x : Int} (hx : x ≠ 0) : InCategory (Nat.log2 x.natAbs + 1) x := by
  have hlo := Nat.log2_self_le (Int.natAbs_ne_zero.2 hx)
  have hhi := Nat.lt_log2_self (n := x.natAbs)
  zify at hlo hhi
  rw [InCategory, Nat.add_sub_cancel]
  rcases abs_cases x with ⟨habs, _⟩ | ⟨habs, _⟩ <;> rw [habs] at hlo hhi
  · exact .inr (by omega)
  · exact .inl (by omega)

/-- The extra bits that the encoder gives a value say what it is (R497). -/
theorem extend_extraBits (x : Int) :
    extraBits x (bitLength x.natAbs) < 2 ^ bitLength x.natAbs ∧ extend (extraBits x (bitLength x.natAbs)) (bitLength x.natAbs) = x := by
  by_cases hx : x = 0
  · subst hx
    decide
  · rw [bitLength, if_neg (Int.natAbs_ne_zero.2 hx)]
    exact extraBits_ofCategory (inCategory_bitLength hx)

theorem bitLength_le {m n : Nat} (h : m < 2 ^ n) : bitLength m ≤ n := by
  unfold bitLength
  split
  · exact Nat.zero_le n
  · next hm => exact Nat.succ_le_of_lt ((Nat.log2_lt hm).2 h)

theorem bitLength_pos {m : Nat} (h : m ≠ 0) : 1 ≤ bitLength m := by
  rw [bitLength, if_neg h]
  exact Nat.le_add_left 1 _

/-! ### AC symbols (R497) -/

/-- The symbol of a value behind `r` zeros, fewer than 16 (R497). -/
def coeffToken (table r : Nat) (v : Int) : Token :=
  ⟨table, r % 16 * 16 + bitLength v.natAbs, bitLength v.natAbs, extraBits v (bitLength v.natAbs)⟩

theorem acTokens_zero (table r : Nat) (rest : List Int) : acTokens table r (0 :: rest) = acTokens table (r + 1) rest := by
  rw [acTokens, if_pos rfl]

theorem acTokens_value (table r : Nat) {v : Int} (hv : v ≠ 0) (rest : List Int) : acTokens table r (v :: rest) =
    List.replicate (r / 16) ⟨table, 0xF0, 0, 0⟩ ++ coeffToken table r v :: acTokens table 0 rest := by
  rw [acTokens, if_neg hv]
  rfl

/-- A symbol of the AC table, with as many extra bits as its low half says. -/
def IsAcToken (table : Nat) (t : Token) : Prop := t.table = table ∧ t.sym < 256 ∧ t.size = t.sym % 16 ∧ t.extra < 2 ^ t.size

/-- EOB and ZRL have no extra bits. -/
theorem isAcToken_plain (table : Nat) {sym : Nat} (hlt : sym < 256) (hsize : sym % 16 = 0) : IsAcToken table ⟨table, sym, 0, 0⟩ :=
  ⟨rfl, hlt, hsize.symm, Nat.one_pos⟩

theorem isAcToken_coeffToken (table r : Nat) {v : Int} (hv : v.natAbs < 2 ^ 15) : IsAcToken table (coeffToken table r v) := by
  have hlen := bitLength_le hv
  refine ⟨rfl, ?_, ?_, (extend_extraBits v).1⟩ <;> dsimp only [coeffToken] <;> omega

theorem isAcToken_acTokens (table : Nat) : ∀ (r : Nat) {l : List Int}, (∀ v ∈ l, v.natAbs < 2 ^ 15) →
    ∀ t ∈ acTokens table r l, IsAcToken table t
  | r, [], _, t, ht => by
    rw [acTokens] at ht
    split at ht
    · obtain rfl := List.mem_singleton.1 ht
      exact isAcToken_plain table (by decide) (by decide)
    · cases ht
  | r, v :: rest, hl, t, ht => by
    obtain ⟨hv, hrest⟩ := List.forall_mem_cons.1 hl
    by_cases h0 : v = 0
    · rw [h0, acTokens_zero] at ht
      exact isAcToken_acTokens table (r + 1) hrest t ht
    · rw [acTokens_value table r h0, List.mem_append, List.mem_cons] at ht
      rcases ht with ht | rfl | ht
      · rw [List.eq_of_mem_replicate ht]
        exact isAcToken_plain table (by decide) (by decide)
      · exact isAcToken_coeffToken table r hv
      · exact isAcToken_acTokens table 0 hrest t ht

/-! #### What they stand for (R302) -/

theorem acValues_zrls (table : Nat) (rest : List Token) : ∀ (n room : Nat),
    Rule.acValues (List.replicate n ⟨table, 0xF0, 0, 0⟩ ++ rest) room = List.replicate (16 * n) 0 ++ Rule.acValues rest (room - 16 * n)
  | 0, room => rfl
  | n + 1, room => by
    rw [List.replicate_succ, List.cons_append, Rule.acValues, if_neg (show ¬ (0xF0 : Nat) = 0 by decide), if_pos rfl,
      acValues_zrls table rest n, ← List.append_assoc, List.replicate_append_replicate]
    congr 2 <;> omega

theorem acValues_coeffToken (table r : Nat) {v : Int} (hv : v ≠ 0) (hlt : v.natAbs < 2 ^ 15) (rest : List Token) (room : Nat) :
    Rule.acValues (coeffToken table r v :: rest) room =
      List.replicate (r % 16) 0 ++ v :: Rule.acValues rest (room - r % 16 - 1) := by
  have hlen := bitLength_le hlt
  have hpos := bitLength_pos (Int.natAbs_ne_zero.2 hv)
  have hsym : (coeffToken table r v).sym = r % 16 * 16 + bitLength v.natAbs := rfl
  have hval : extend (coeffToken table r v).extra (coeffToken table r v).size = v := (extend_extraBits v).2
  have hrun : (r % 16 * 16 + bitLength v.natAbs) / 16 = r % 16 := by omega
  rw [Rule.acValues, hsym, if_neg (by omega), if_neg (by omega), hval, hrun]

/-- The AC symbols of a block stand for its coefficients, `r` pending zeros before them. -/
theorem acValues_acTokens (table : Nat) : ∀ (r : Nat) {l : List Int}, (∀ v ∈ l, v.natAbs < 2 ^ 15) →
    Rule.acValues (acTokens table r l) (r + l.length) = List.replicate r 0 ++ l
  | r, [], _ => by
    rw [acTokens]
    by_cases hr : r > 0
    · rw [if_pos hr, Rule.acValues, if_pos rfl, if_pos rfl, List.append_nil]
      rfl
    · rw [if_neg hr, Nat.eq_zero_of_not_pos hr]
      rfl
  | r, v :: rest, hl => by
    obtain ⟨hv, hrest⟩ := List.forall_mem_cons.1 hl
    by_cases h0 : v = 0
    · have ih := acValues_acTokens table (r + 1) hrest
      rw [h0, acTokens_zero, List.length_cons, Nat.add_comm rest.length 1, ← Nat.add_assoc, ih, List.replicate_succ', List.append_assoc]
      rfl
    · have ih := acValues_acTokens table 0 hrest
      have hroom : r + (v :: rest).length - 16 * (r / 16) - r % 16 - 1 = 0 + rest.length := by
        rw [List.length_cons]
        omega
      rw [acTokens_value table r h0, acValues_zrls, acValues_coeffToken table r h0 hv, hroom, ih, ← List.append_assoc,
        List.replicate_append_replicate, Nat.div_add_mod]
      rfl

theorem mem_drop_block {b : Block} {v : Int} (h : v ∈ b.toList.drop 1) : ∃ k < 64, v = vget b k 0 := by
  obtain ⟨k, hk, rfl⟩ := List.getElem_of_mem (List.mem_of_mem_drop h)
  rw [Vector.length_toList] at hk
  exact ⟨k, hk, by simp [vget, hk]⟩

/-! ### The scans (R497, R512) -/

/-- The DC value before block `j`: `pred` before the first, then that of the block before. -/
def dcBefore (pred : Int) (bs : List Block) (j : Nat) : Int :=
  if j = 0 then pred else vget (lget bs (j - 1) (Vector.replicate 64 0)) 0 0

theorem dcBefore_succ (pred : Int) (b : Block) (bs : List Block) (j : Nat) :
    dcBefore pred (b :: bs) (j + 1) = dcBefore (vget b 0 0) bs j := by
  cases j <;> rfl

theorem lumaTokens_eq : ∀ (pred : Int) (bs : List Block), lumaTokens pred bs = (List.range bs.length).flatMap fun j =>
    blockTokens 0 1 (dcBefore pred bs j) (lget bs j (Vector.replicate 64 0))
  | _, [] => rfl
  | pred, b :: bs => by
    rw [lumaTokens, lumaTokens_eq, List.length_cons, List.range_succ_eq_map, List.flatMap_cons, List.flatMap_map]
    simp only [dcBefore_succ]
    rfl

theorem chromaTokens_eq : ∀ (pb pr : Int) (bs rs : List Block), chromaTokens pb pr (bs.zip rs) =
    (List.range (min bs.length rs.length)).flatMap fun j =>
      blockTokens 2 3 (dcBefore pb bs j) (lget bs j (Vector.replicate 64 0)) ++
      blockTokens 2 3 (dcBefore pr rs j) (lget rs j (Vector.replicate 64 0))
  | _, _, [], _ => by simp [chromaTokens]
  | _, _, _ :: _, [] => by simp [chromaTokens]
  | pb, pr, b :: bs, r :: rs => by
    rw [List.zip_cons_cons, chromaTokens, chromaTokens_eq, List.length_cons, List.length_cons, Nat.add_min_add_right,
      List.range_succ_eq_map, List.flatMap_cons, List.flatMap_map]
    simp only [dcBefore_succ]
    rfl

/-! ### Frequencies (R498) -/

/-- One symbol counted. -/
def countToken (fr : Vector (Vector Nat 256) 4) (t : Token) : Vector (Vector Nat 256) 4 :=
  vset fr t.table (vset (vget fr t.table (Vector.replicate 256 0)) t.sym (vget (vget fr t.table (Vector.replicate 256 0)) t.sym 0 + 1))

/-- The count of a symbol in a table. -/
def countOf (fr : Vector (Vector Nat 256) 4) (i sym : Nat) : Nat := vget (vget fr i (Vector.replicate 256 0)) sym 0

theorem countOf_countToken (fr : Vector (Vector Nat 256) 4) (t : Token) {i sym : Nat} (hi : i < 4) (hsym : sym < 256) :
    countOf (countToken fr t) i sym = countOf fr i sym + if t.table == i && t.sym == sym then 1 else 0 := by
  unfold countOf countToken
  by_cases ht : t.table = i
  · subst ht
    rw [vget_vset_same hi]
    by_cases hs : t.sym = sym
    · subst hs
      rw [vget_vset_same hsym]
      simp
    · rw [vget_vset_ne _ hs]
      simp [hs]
  · rw [vget_vset_ne _ ht]
    simp [ht]

theorem countOf_foldl {i sym : Nat} (hi : i < 4) (hsym : sym < 256) : ∀ (ts : List Token) (fr : Vector (Vector Nat 256) 4),
    countOf (ts.foldl countToken fr) i sym = countOf fr i sym + (ts.filter fun t => t.table == i && t.sym == sym).length
  | [], _ => rfl
  | t :: ts, fr => by
    rw [List.foldl_cons, countOf_foldl hi hsym ts, countOf_countToken fr t hi hsym, List.filter_cons]
    by_cases ht : (t.table == i && t.sym == sym) = true
    · rw [if_pos ht, if_pos ht, List.length_cons, Nat.add_assoc, Nat.add_comm 1]
    · rw [if_neg ht, if_neg ht, Nat.add_zero]

/-- Settles O54: the symbols of a block by induction on its coefficients, the scans block by block, the counts symbol by symbol. -/
theorem encoderSymbols : Obligations.EncoderSymbols := by
  refine ⟨fun dcTable acTable pred b hb hdc => ?_, fun e => ⟨lumaTokens_eq 0 e.yBlocks, chromaTokens_eq 0 0 e.cbBlocks e.crBlocks⟩,
    fun ts i sym hi hsym => ?_⟩
  · obtain ⟨hextra, hvalue⟩ := extend_extraBits (vget b 0 0 - pred)
    have hac : ∀ v ∈ b.toList.drop 1, v.natAbs < 2 ^ 15 := fun v hv => by
      obtain ⟨k, hk, rfl⟩ := mem_drop_block hv
      exact hb k hk
    refine ⟨_, _, rfl, rfl, rfl, bitLength_le hdc, hextra, hvalue, isAcToken_acTokens acTable 0 hac, ?_⟩
    have hlen : (b.toList.drop 1).length = 63 := by rw [List.length_drop, Vector.length_toList]
    have hvalues := acValues_acTokens acTable 0 hac
    rw [Nat.zero_add, hlen] at hvalues
    exact hvalues
  · have hcount := countOf_foldl hi hsym ts (Vector.replicate 4 (Vector.replicate 256 0))
    have hzero : countOf (Vector.replicate 4 (Vector.replicate 256 0)) i sym = 0 := by
      rw [countOf, vget_replicate, vget_replicate]
    rw [hzero, Nat.zero_add] at hcount
    exact hcount

end Sys2Proof.Machine

namespace Sys2Proof.Machine

/-! ### The order of the pending nodes (R500, R501) -/

/-- `a` has the smaller key: by frequency, then by index. -/
def TreeNode.KeyLt (a b : TreeNode) : Prop := a.freq < b.freq ∨ (a.freq = b.freq ∧ a.idx < b.idx)

theorem before_iff (a b : TreeNode) : a.before b = true ↔ a.KeyLt b := by
  simp [TreeNode.before, TreeNode.KeyLt]

theorem keyLt_of_not {a b : TreeNode} (h : ¬ b.KeyLt a) (hidx : a.idx ≠ b.idx) : a.KeyLt b := by
  unfold TreeNode.KeyLt at *
  omega

/-- Sorted by key, and no two nodes share an index. -/
def Pending (nodes : List TreeNode) : Prop := nodes.Pairwise TreeNode.KeyLt ∧ (nodes.map (·.idx)).Nodup

theorem pending_nil : Pending [] := ⟨.nil, .nil⟩

theorem perm_insertNode (n : TreeNode) : ∀ l, (insertNode n l).Perm (n :: l)
  | [] => .refl _
  | x :: l => by
    rw [insertNode]
    split
    · exact .refl _
    · exact ((perm_insertNode n l).cons x).trans (.swap n x l)

theorem pending_insertNode {n : TreeNode} : ∀ {l : List TreeNode}, Pending l → n.idx ∉ l.map (·.idx) → Pending (insertNode n l)
  | [], _, _ => ⟨List.pairwise_singleton _ _, List.nodup_singleton _⟩
  | x :: l, ⟨hsorted, hidx⟩, hn => by
    refine ⟨?_, ((perm_insertNode n (x :: l)).map _).nodup_iff.2 (List.nodup_cons.2 ⟨hn, hidx⟩)⟩
    obtain ⟨hx, hl⟩ := List.pairwise_cons.1 hsorted
    rw [List.map_cons, List.mem_cons, not_or] at hn
    rw [insertNode]
    by_cases hbefore : n.before x = true
    · rw [if_pos hbefore]
      have hnx := (before_iff n x).1 hbefore
      refine List.pairwise_cons.2 ⟨List.forall_mem_cons.2 ⟨hnx, fun y hy => ?_⟩, hsorted⟩
      have hxy := hx y hy
      unfold TreeNode.KeyLt at *
      omega
    · rw [if_neg hbefore]
      have hxn : x.KeyLt n := keyLt_of_not (mt (before_iff n x).2 hbefore) (Ne.symm hn.1)
      refine List.pairwise_cons.2 ⟨fun y hy => ?_, (pending_insertNode ⟨hl, (List.nodup_cons.1 hidx).2⟩ hn.2).1⟩
      rcases List.mem_cons.1 ((perm_insertNode n l).subset hy) with rfl | hy
      · exact hxn
      · exact hx y hy

/-- The smallest node of a list is one that none is smaller than. -/
theorem smallest_cons (n : TreeNode) : ∀ l, ∃ m ∈ n :: l, Rule.smallest (n :: l) = some m ∧ ∀ k ∈ n :: l, ¬ k.KeyLt m
  | [] => ⟨n, List.mem_singleton.2 rfl, rfl, fun k hk => by
      rw [List.mem_singleton.1 hk]
      unfold TreeNode.KeyLt
      omega⟩
  | x :: l => by
    obtain ⟨m, hm, hsmall, hmin⟩ := smallest_cons x l
    rw [Rule.smallest, hsmall]
    by_cases hbefore : m.before n = true
    · refine ⟨m, List.mem_cons_of_mem _ hm, congrArg some (if_pos hbefore), List.forall_mem_cons.2 ⟨?_, hmin⟩⟩
      have := (before_iff m n).1 hbefore
      unfold TreeNode.KeyLt at *
      omega
    · have hnot := mt (before_iff m n).2 hbefore
      refine ⟨n, List.mem_cons_self, congrArg some (if_neg hbefore), List.forall_mem_cons.2 ⟨?_, fun k hk => ?_⟩⟩
      · unfold TreeNode.KeyLt
        omega
      · have := hmin k hk
        unfold TreeNode.KeyLt at *
        omega

/-- The smallest of the pending nodes, in any order, is the first of them sorted. -/
theorem smallest_perm {x : TreeNode} {l pending : List TreeNode} (hsorted : (x :: l).Pairwise TreeNode.KeyLt)
    (hperm : pending.Perm (x :: l)) : Rule.smallest pending = some x := by
  cases pending with
  | nil => cases hperm.nil_eq
  | cons n rest =>
    obtain ⟨m, hm, hsmall, hmin⟩ := smallest_cons n rest
    have hx := hmin x (hperm.mem_iff.2 List.mem_cons_self)
    rcases List.mem_cons.1 (hperm.mem_iff.1 hm) with rfl | hm
    · exact hsmall
    · exact absurd ((List.pairwise_cons.1 hsorted).1 m hm) hx

/-! ### Joining the two smallest (R500) -/

theorem join_idx_notMem {a b : TreeNode} {rest : List TreeNode} (h : ((a :: b :: rest).map (·.idx)).Nodup) :
    (a.join b).idx ∉ rest.map (·.idx) := by
  simp only [List.map_cons, List.nodup_cons, List.mem_cons, not_or] at h
  obtain ⟨⟨-, ha⟩, hb, -⟩ := h
  rw [show (a.join b).idx = min a.idx b.idx from rfl]
  rcases min_choice a.idx b.idx with hmin | hmin
  · rwa [hmin]
  · rwa [hmin]

theorem pending_join {a b : TreeNode} {rest : List TreeNode} (h : Pending (a :: b :: rest)) :
    Pending (insertNode (a.join b) rest) := by
  refine pending_insertNode ⟨?_, ?_⟩ (join_idx_notMem h.2)
  · exact (List.pairwise_cons.1 (List.pairwise_cons.1 h.1).2).2
  · exact (List.nodup_cons.1 (List.nodup_cons.1 h.2).2).2

/-- Joining on the sorted list is joining the two of smallest key. -/
theorem mergePending_eq : ∀ {fuel : Nat} {nodes pending : List TreeNode}, Pending nodes → pending.Perm nodes →
    nodes.length ≤ fuel → Rule.mergePending fuel pending = mergeNodes fuel nodes
  | 0, nodes, pending, _, _, hfuel => by
    rw [List.eq_nil_of_length_eq_zero (Nat.le_zero.1 hfuel)]
    rfl
  | fuel + 1, [], pending, _, hperm, _ => by
    rw [hperm.eq_nil]
    rfl
  | fuel + 1, [n], pending, _, hperm, _ => by
    rw [List.perm_singleton.1 hperm]
    simp [Rule.mergePending, Rule.smallest, mergeNodes]
  | fuel + 1, a :: b :: rest, pending, hnodes, hperm, hfuel => by
    have hrest : (pending.erase a).Perm (b :: rest) := by
      have := hperm.erase a
      rwa [List.erase_cons_head] at this
    have hrest' : ((pending.erase a).erase b).Perm rest := by
      have := hrest.erase b
      rwa [List.erase_cons_head] at this
    rw [Rule.mergePending, smallest_perm hnodes.1 hperm]
    dsimp only
    rw [smallest_perm (List.pairwise_cons.1 hnodes.1).2 hrest, mergeNodes]
    refine mergePending_eq (pending_join hnodes) ((hrest'.cons _).trans (perm_insertNode (a.join b) rest).symm) ?_
    rw [(perm_insertNode (a.join b) rest).length_eq]
    simp only [List.length_cons] at hfuel ⊢
    omega

/-! ### The pending leaves (R500) -/

/-- The symbols with a frequency. -/
def usedSymbols (freq : List Nat) : List Nat := (List.range freq.length).filter fun k => lget freq k 0 != 0

/-- The leaf of a symbol. -/
def leafOf (freq : List Nat) (k : Nat) : TreeNode := ⟨lget freq k 0, k, [(k, 0)]⟩

theorem nodup_usedSymbols (freq : List Nat) : (usedSymbols freq).Nodup := List.nodup_range.filter _

theorem zipIdx_eq (freq : List Nat) : freq.zipIdx = (List.range freq.length).map fun k => (lget freq k 0, k) := by
  refine List.ext_getElem (by simp) fun k hk _ => ?_
  rw [List.length_zipIdx] at hk
  simp [lget, hk]

/-- The leaves of a list of symbols, put in one by one. -/
theorem foldl_insertNode (freq : List Nat) : ∀ (ks : List Nat) (acc : List TreeNode), ks.Nodup → Pending acc →
    (∀ k ∈ ks, k ∉ acc.map (·.idx)) →
    let nodes := (ks.map fun k => (lget freq k 0, k)).foldl
      (fun acc f => if f.1 = 0 then acc else insertNode ⟨f.1, f.2, [(f.2, 0)]⟩ acc) acc
    Pending nodes ∧ nodes.Perm (((ks.filter fun k => lget freq k 0 != 0).map (leafOf freq)) ++ acc)
  | [], acc, _, hacc, _ => ⟨hacc, .refl _⟩
  | k :: ks, acc, hks, hacc, hnew => by
    obtain ⟨hk, hks⟩ := List.nodup_cons.1 hks
    obtain ⟨hkacc, hnew⟩ := List.forall_mem_cons.1 hnew
    rw [List.map_cons, List.foldl_cons]
    by_cases h0 : lget freq k 0 = 0
    · rw [if_pos h0, List.filter_cons_of_neg (by simp [h0])]
      exact foldl_insertNode freq ks acc hks hacc hnew
    · rw [if_neg h0, List.filter_cons_of_pos (by simp [h0])]
      have hperm := perm_insertNode (leafOf freq k) acc
      have hnew' : ∀ j ∈ ks, j ∉ (insertNode (leafOf freq k) acc).map (·.idx) := fun j hj hmem => by
        rcases List.mem_cons.1 ((hperm.map (·.idx)).subset hmem) with rfl | hmem
        · exact hk hj
        · exact hnew j hj hmem
      obtain ⟨hpending, hall⟩ := foldl_insertNode freq ks _ hks (pending_insertNode (n := leafOf freq k) hacc hkacc) hnew'
      exact ⟨hpending, hall.trans ((hperm.append_left _).trans List.perm_middle)⟩

theorem leafNodes_spec (freq : List Nat) : Pending (leafNodes freq) ∧ (leafNodes freq).Perm ((usedSymbols freq).map (leafOf freq)) := by
  have h := foldl_insertNode freq (List.range freq.length) [] List.nodup_range pending_nil (fun _ _ => List.not_mem_nil)
  rw [← zipIdx_eq, List.append_nil] at h
  exact h

theorem length_leafNodes (freq : List Nat) : (leafNodes freq).length = (usedSymbols freq).length := by
  rw [(leafNodes_spec freq).2.length_eq, List.length_map]

/-! ### The code lengths of the tree (R500) -/

/-- The depth of a symbol's leaf, 0 where it has none. -/
def depthOf (depths : List (Nat × Nat)) (k : Nat) : Nat := ((depths.find? fun d => d.1 == k).map (·.2)).getD 0

theorem treeLengths_single {freq : List Nat} {k : Nat} (h : usedSymbols freq = [k]) :
    treeLengths freq = (List.range freq.length).map fun j => if j = k then 1 else 0 := by
  have hperm := (leafNodes_spec freq).2
  rw [h] at hperm
  have hleaf : leafNodes freq = [leafOf freq k] := List.perm_singleton.1 hperm
  rw [treeLengths, hleaf]
  refine List.map_congr_left fun j _ => ?_
  by_cases hj : j = k
  · simp [leafOf, hj]
  · simp [leafOf, hj, Ne.symm hj]

/-- The depths of the leaves of the encoder's tree. -/
def treeDepths (freq : List Nat) : List (Nat × Nat) := mergeNodes (leafNodes freq).length (leafNodes freq)

theorem treeLengths_depths {freq : List Nat} (h : 2 ≤ (usedSymbols freq).length) :
    treeLengths freq = (List.range freq.length).map (depthOf (treeDepths freq)) := by
  rw [← length_leafNodes] at h
  rw [treeLengths, treeDepths]
  match hnodes : leafNodes freq with
  | [] | [_] => simp [hnodes] at h
  | _ :: _ :: _ => rfl

/-- With two or more used symbols the lengths are the depths of the tree that joins the two of smallest key until one is left. -/
theorem treeLengths_eq {freq : List Nat} (h : 2 ≤ (usedSymbols freq).length) : treeLengths freq =
    (List.range freq.length).map (depthOf (Rule.mergePending (usedSymbols freq).length ((usedSymbols freq).map (leafOf freq)))) := by
  obtain ⟨hpending, hperm⟩ := leafNodes_spec freq
  have hlen := length_leafNodes freq
  rw [mergePending_eq hpending hperm.symm hlen.le, ← hlen]
  exact treeLengths_depths h

end Sys2Proof.Machine

namespace Sys2Proof.Machine

/-! ### The tree is full (R500) -/

/-- The leaves of a full binary tree: their weights at any depth not above them fill that depth. -/
def Full (leaves : List (Nat × Nat)) : Prop :=
  ∀ D, (∀ l ∈ leaves, l.2 ≤ D) → (leaves.map fun l => 2 ^ (D - l.2)).sum = 2 ^ D

theorem full_leaf (k : Nat) : Full [(k, 0)] := fun D _ => by simp

theorem Full.ne_nil {leaves : List (Nat × Nat)} (h : Full leaves) : leaves ≠ [] := by
  rintro rfl
  simpa using h 0 (fun _ hl => absurd hl List.not_mem_nil)

theorem Full.join {a b : TreeNode} (ha : Full a.leaves) (hb : Full b.leaves) : Full (a.join b).leaves := by
  intro D hD
  simp only [TreeNode.join, List.forall_mem_map, List.forall_mem_append] at hD
  obtain ⟨l, hl⟩ := List.exists_mem_of_ne_nil _ ha.ne_nil
  obtain ⟨D, rfl⟩ := Nat.exists_eq_add_one.2 (lt_of_lt_of_le (Nat.succ_pos _) (hD.1 l hl))
  have hsumA := ha D fun l hl => Nat.le_of_succ_le_succ (hD.1 l hl)
  have hsumB := hb D fun l hl => Nat.le_of_succ_le_succ (hD.2 l hl)
  simp only [TreeNode.join, List.map_map, List.map_append, List.sum_append, Function.comp_def, Nat.add_sub_add_right]
  rw [hsumA, hsumB, pow_succ]
  omega

/-- No leaf of a full tree with two or more is the root. -/
theorem Full.depth_pos {leaves : List (Nat × Nat)} (h : Full leaves) (htwo : 2 ≤ leaves.length) : ∀ l ∈ leaves, l.2 ≠ 0 := by
  intro l hl h0
  have hperm := List.perm_cons_erase hl
  have hsum := h (leaves.map (·.2)).sum fun m hm => List.le_sum_of_mem (List.mem_map_of_mem hm)
  rw [(hperm.map _).sum_eq, List.map_cons, List.sum_cons, h0, Nat.sub_zero, Nat.add_eq_left, List.sum_eq_zero_iff] at hsum
  obtain ⟨m, hm⟩ : ∃ m, m ∈ leaves.erase l := by
    refine List.exists_mem_of_ne_nil _ fun hnil => ?_
    rw [hperm.length_eq, hnil] at htwo
    simp at htwo
  exact absurd (hsum _ (List.mem_map_of_mem hm)) (Nat.two_pow_pos _).ne'

/-- The symbols at a node's leaves. -/
def TreeNode.syms (n : TreeNode) : List Nat := n.leaves.map (·.1)

theorem syms_join (a b : TreeNode) : (a.join b).syms = a.syms ++ b.syms := by
  simp [TreeNode.syms, TreeNode.join, Function.comp_def]

/-- Merging full trees leaves one full tree with all their symbols. -/
theorem mergeNodes_full : ∀ {fuel : Nat} {nodes : List TreeNode}, nodes ≠ [] → nodes.length ≤ fuel →
    (∀ n ∈ nodes, Full n.leaves) →
    Full (mergeNodes fuel nodes) ∧ ((mergeNodes fuel nodes).map (·.1)).Perm (nodes.flatMap TreeNode.syms)
  | _, [], hnil, _, _ => absurd rfl hnil
  | 0, _ :: _, _, hfuel, _ => absurd hfuel (by simp)
  | fuel + 1, [n], _, _, hfull => ⟨hfull n List.mem_cons_self, by simp [mergeNodes, TreeNode.syms]⟩
  | fuel + 1, a :: b :: rest, _, hfuel, hfull => by
    obtain ⟨ha, hb, hrest⟩ : Full a.leaves ∧ Full b.leaves ∧ ∀ n ∈ rest, Full n.leaves := by simpa using hfull
    have hperm := perm_insertNode (a.join b) rest
    have hlen : (insertNode (a.join b) rest).length ≤ fuel := by
      rw [hperm.length_eq]
      exact Nat.le_of_succ_le_succ hfuel
    have hne : insertNode (a.join b) rest ≠ [] := fun h => by
      rw [h] at hperm
      cases hperm.nil_eq
    obtain ⟨hmerged, hsyms⟩ := mergeNodes_full hne hlen fun n hn =>
      List.forall_mem_cons (p := fun n => Full n.leaves).2 ⟨ha.join hb, hrest⟩ n (hperm.subset hn)
    refine ⟨hmerged, hsyms.trans ((hperm.flatMap_right _).trans (.of_eq ?_))⟩
    simp only [List.flatMap_cons, syms_join, List.append_assoc]

theorem treeDepths_full {freq : List Nat} (h : 2 ≤ (usedSymbols freq).length) :
    Full (treeDepths freq) ∧ ((treeDepths freq).map (·.1)).Perm (usedSymbols freq) := by
  have hperm := (leafNodes_spec freq).2
  have hne : leafNodes freq ≠ [] := fun hnil => by
    rw [← length_leafNodes, hnil] at h
    simp at h
  have hfull : ∀ n ∈ leafNodes freq, Full n.leaves := fun n hn => by
    obtain ⟨k, -, rfl⟩ := List.mem_map.1 (hperm.subset hn)
    exact full_leaf k
  obtain ⟨hmerged, hsyms⟩ := mergeNodes_full hne le_rfl hfull
  refine ⟨hmerged, hsyms.trans ((hperm.flatMap_right _).trans (.of_eq ?_))⟩
  simp [List.flatMap_map, leafOf, TreeNode.syms]

/-! ### The lengths of the tree make a complete code (R502) -/

theorem depthOf_of_mem : ∀ {depths : List (Nat × Nat)} {d : Nat × Nat}, (depths.map (·.1)).Nodup → d ∈ depths →
    depthOf depths d.1 = d.2
  | e :: depths, d, hnodup, hd => by
    obtain ⟨he, hnodup⟩ := List.nodup_cons.1 hnodup
    rcases List.mem_cons.1 hd with rfl | hd
    · simp [depthOf]
    · have hne : e.1 ≠ d.1 := fun h => he (h ▸ List.mem_map_of_mem (f := (·.1)) hd : e.1 ∈ _)
      rw [← depthOf_of_mem hnodup hd, depthOf, List.find?_cons_of_neg (by simpa using hne), depthOf]

theorem depthOf_of_notMem {depths : List (Nat × Nat)} {k : Nat} (h : k ∉ depths.map (·.1)) : depthOf depths k = 0 := by
  have hnone : depths.find? (fun d => d.1 == k) = none := List.find?_eq_none.2 fun d hd hk =>
    h (beq_iff_eq.1 hk ▸ List.mem_map_of_mem hd)
  rw [depthOf, hnone]
  rfl

theorem mem_usedSymbols {freq : List Nat} {k : Nat} : k ∈ usedSymbols freq ↔ lget freq k 0 ≠ 0 := by
  by_cases hk : k < freq.length
  · simp [usedSymbols, hk]
  · simp [usedSymbols, hk, lget]

/-- A symbol is a leaf below the root exactly where it is used. -/
theorem depthOf_treeDepths {freq : List Nat} (h : 2 ≤ (usedSymbols freq).length) (k : Nat) :
    depthOf (treeDepths freq) k = 0 ↔ lget freq k 0 = 0 := by
  obtain ⟨hfull, hsyms⟩ := treeDepths_full h
  have hnodup := hsyms.nodup_iff.2 (nodup_usedSymbols freq)
  by_cases hk : lget freq k 0 = 0
  · exact iff_of_true (depthOf_of_notMem fun hmem => mem_usedSymbols.1 (hsyms.subset hmem) hk) hk
  · obtain ⟨d, hd, rfl⟩ := List.mem_map.1 (hsyms.mem_iff.2 (mem_usedSymbols.2 hk))
    have hlen : 2 ≤ (treeDepths freq).length := by
      have := hsyms.length_eq
      rw [List.length_map] at this
      omega
    rw [depthOf_of_mem hnodup hd]
    exact iff_of_false (hfull.depth_pos hlen d hd) hk

/-- A length's part of `kraftSum`. -/
def codeWeight (M l : Nat) : Nat := if l = 0 then 0 else 2 ^ (M - l)

theorem kraftSum_eq (M : Nat) (len : List Nat) : kraftSum M len = (len.map (codeWeight M)).sum := rfl

theorem sum_map_filter_ne_zero (f : Nat → Nat) (p : Nat → Bool) (hp : ∀ k, p k = false → f k = 0) : ∀ ks : List Nat,
    ((ks.filter p).map f).sum = (ks.map f).sum
  | [] => rfl
  | k :: ks => by
    rw [List.map_cons, List.sum_cons, ← sum_map_filter_ne_zero f p hp ks]
    by_cases hk : p k = true
    · rw [List.filter_cons_of_pos hk, List.map_cons, List.sum_cons]
    · rw [List.filter_cons_of_neg hk, hp k (by simpa using hk), Nat.zero_add]

theorem kraftSum_treeLengths {freq : List Nat} {M : Nat} (h : 2 ≤ (usedSymbols freq).length) (hM : ∀ l ∈ treeLengths freq, l ≤ M) :
    kraftSum M (treeLengths freq) = 2 ^ M := by
  obtain ⟨hfull, hsyms⟩ := treeDepths_full h
  have hnodup := hsyms.nodup_iff.2 (nodup_usedSymbols freq)
  have hweight : ∀ d ∈ treeDepths freq, codeWeight M (depthOf (treeDepths freq) d.1) = 2 ^ (M - d.2) ∧ d.2 ≤ M := fun d hd => by
    have hused := mem_usedSymbols.1 (hsyms.subset (List.mem_map_of_mem hd))
    have hne := mt (depthOf_treeDepths h d.1).1 hused
    have hle : depthOf (treeDepths freq) d.1 ≤ M := by
      refine hM _ (treeLengths_depths h ▸ List.mem_map_of_mem (List.mem_range.2 ?_))
      by_contra hge
      simp [lget, hge] at hused
    rw [depthOf_of_mem hnodup hd] at hne hle ⊢
    exact ⟨if_neg hne, hle⟩
  calc kraftSum M (treeLengths freq)
      = ((List.range freq.length).map fun k => codeWeight M (depthOf (treeDepths freq) k)).sum := by
        rw [kraftSum_eq, treeLengths_depths h, List.map_map]
        rfl
    _ = ((usedSymbols freq).map fun k => codeWeight M (depthOf (treeDepths freq) k)).sum := by
        refine (sum_map_filter_ne_zero _ _ (fun k hk => ?_) _).symm
        rw [(depthOf_treeDepths h k).2 (by simpa using hk)]
        rfl
    _ = ((treeDepths freq).map fun d => 2 ^ (M - d.2)).sum := by
        rw [← (hsyms.map _).sum_eq, List.map_map]
        exact congrArg List.sum (List.map_congr_left fun d hd => (hweight d hd).1)
    _ = 2 ^ M := hfull M fun d hd => (hweight d hd).2

theorem lget_treeLengths {freq : List Nat} (h : 2 ≤ (usedSymbols freq).length) (k : Nat) :
    lget (treeLengths freq) k 0 = 0 ↔ lget freq k 0 = 0 := by
  rw [treeLengths_depths h]
  by_cases hk : k < freq.length
  · rw [← depthOf_treeDepths h k]
    simp [lget, hk]
  · simp [lget, hk]

theorem length_treeLengths (freq : List Nat) : (treeLengths freq).length = freq.length := by
  simp [treeLengths]

end Sys2Proof.Machine

namespace Sys2Proof.Machine

/-! ### Changing one length -/

theorem lget_set {α : Type} {l : List α} {s : Nat} (hs : s < l.length) (x d : α) (k : Nat) :
    lget (l.set s x) k d = if s = k then x else lget l k d := by
  by_cases hk : s = k
  · subst hk
    simp [lget, hs]
  · simp [lget, hk]

theorem lget_mem {l : List Nat} {k : Nat} (h : lget l k 0 ≠ 0) : k < l.length ∧ lget l k 0 ∈ l := by
  by_cases hk : k < l.length
  · exact ⟨hk, by simp [lget, hk]⟩
  · simp [lget, hk] at h

theorem lget_map_zero {f : Nat → Nat} (hf : f 0 = 0) (l : List Nat) (k : Nat) : lget (l.map f) k 0 = f (lget l k 0) := by
  by_cases hk : k < l.length
  · simp [lget, hk]
  · simp [lget, hk, hf]

theorem lget_le {l : List Nat} {M : Nat} (h : ∀ x ∈ l, x ≤ M) (k : Nat) : lget l k 0 ≤ M := by
  by_cases hk : lget l k 0 = 0
  · omega
  · exact h _ (lget_mem hk).2

theorem sum_map_set (f : Nat → Nat) (x : Nat) : ∀ {l : List Nat} {s : Nat}, s < l.length →
    ((l.set s x).map f).sum + f (lget l s 0) = (l.map f).sum + f x
  | a :: l, 0, _ => by
    simp [lget]
    omega
  | a :: l, s + 1, hs => by
    have := sum_map_set f x (Nat.lt_of_succ_lt_succ hs)
    simp only [List.set_cons_succ, List.map_cons, List.sum_cons, lget, List.getElem?_cons_succ] at this ⊢
    omega

/-- Two symbols' weights are part of the sum. -/
theorem two_le_kraftSum {M : Nat} {len : List Nat} {i j : Nat} (hij : i ≠ j) (hi : lget len i 0 ≠ 0) (hj : lget len j 0 ≠ 0) :
    codeWeight M (lget len i 0) + codeWeight M (lget len j 0) ≤ kraftSum M len := by
  have hset := sum_map_set (codeWeight M) 0 (lget_mem hi).1
  have hget : lget (len.set i 0) j 0 = lget len j 0 := by rw [lget_set (lget_mem hi).1, if_neg hij]
  have hmem : lget len j 0 ∈ len.set i 0 := hget ▸ (lget_mem (hget ▸ hj)).2
  have hle := List.le_sum_of_mem (List.mem_map_of_mem (f := codeWeight M) hmem)
  have hzero : codeWeight M 0 = 0 := rfl
  rw [kraftSum_eq]
  omega

/-! ### The symbol the limit changes (R502) -/

theorem bestSymbol_succ (n : Nat) (ok : Nat → Bool) (better : Nat → Nat → Bool) : bestSymbol (n + 1) ok better =
    if ok n then
      match bestSymbol n ok better with
      | none => some n
      | some t => if better n t then some n else some t
    else bestSymbol n ok better := by
  rw [bestSymbol, List.range_succ, List.foldl_append]
  rfl

theorem bestSymbol_some {ok : Nat → Bool} {better : Nat → Nat → Bool} {s : Nat} : ∀ {n : Nat},
    bestSymbol n ok better = some s → s < n ∧ ok s = true
  | n + 1, h => by
    have hbefore (h : bestSymbol n ok better = some s) : s < n + 1 ∧ ok s = true := by
      obtain ⟨hs, hok⟩ := bestSymbol_some h
      exact ⟨Nat.lt_succ_of_lt hs, hok⟩
    rw [bestSymbol_succ] at h
    split at h
    · next hok =>
      have hnew (h : some n = some s) : s < n + 1 ∧ ok s = true := by
        rw [← Option.some.inj h]
        exact ⟨Nat.lt_succ_self n, hok⟩
      split at h
      · exact hnew h
      · next hbest =>
        split at h
        · exact hnew h
        · exact hbefore (hbest.trans h)
    · exact hbefore h

theorem bestSymbol_none {ok : Nat → Bool} {better : Nat → Nat → Bool} : ∀ {n : Nat}, bestSymbol n ok better = none →
    ∀ s < n, ok s = false
  | n + 1, h, s, hs => by
    rw [bestSymbol_succ] at h
    split at h
    · split at h
      · cases h
      · split at h <;> cases h
    · next hok =>
      rcases Nat.lt_succ_iff_lt_or_eq.1 hs with hs | rfl
      · exact bestSymbol_none h s hs
      · simpa using hok

/-! ### What a limit keeps (R502) -/

/-- The same symbols used, and no length above the maximum. -/
structure Limits (M : Nat) (old new : List Nat) : Prop where
  length : new.length = old.length
  zero : ∀ k, lget new k 0 = 0 ↔ lget old k 0 = 0
  le : ∀ l ∈ new, l ≤ M

theorem Limits.refl {M : Nat} {len : List Nat} (h : ∀ l ∈ len, l ≤ M) : Limits M len len := ⟨rfl, fun _ => .rfl, h⟩

theorem Limits.trans {M : Nat} {a b c : List Nat} (hab : Limits M a b) (hbc : Limits M b c) : Limits M a c :=
  ⟨hbc.length.trans hab.length, fun k => (hbc.zero k).trans (hab.zero k), hbc.le⟩

/-- A used symbol's length changed to another. -/
theorem Limits.set {M x s : Nat} {len : List Nat} (h : ∀ l ∈ len, l ≤ M) (hused : lget len s 0 ≠ 0) (hx : x ≠ 0) (hle : x ≤ M) :
    Limits M len (len.set s x) := by
  refine ⟨List.length_set, fun k => ?_, fun l hl => ?_⟩
  · rw [lget_set (lget_mem hused).1]
    split
    · next hk => exact iff_of_false hx (hk ▸ hused)
    · exact .rfl
  · rcases List.mem_or_eq_of_mem_set hl with hl | rfl
    · exact h l hl
    · exact hle

theorem Limits.clamp {M : Nat} (hM : 0 < M) (len : List Nat) : Limits M len (len.map fun l => min l M) := by
  refine ⟨List.length_map _, fun k => ?_, fun l hl => ?_⟩
  · rw [lget_map_zero (Nat.zero_min M)]
    omega
  · obtain ⟨x, -, rfl⟩ := List.mem_map.1 hl
    exact min_le_right _ _

theorem sum_map_le_mul {f : Nat → Nat} {M : Nat} {len : List Nat} (h : ∀ l ∈ len, f l ≤ M) :
    (len.map f).sum ≤ len.length * M := by
  have := List.sum_le_card_nsmul (len.map f) M (by simpa using h)
  simpa using this

/-! ### Lengthening until the code fits (R502) -/

/-- Where no used symbol is shorter than the maximum, the code fits. -/
theorem kraftSum_le_of_max {M : Nat} {len : List Nat} (hlen : len.length ≤ 2 ^ M) (h : ∀ l ∈ len, l ≠ 0 → M ≤ l) :
    kraftSum M len ≤ 2 ^ M := by
  refine le_trans (sum_map_le_mul (M := 1) fun l hl => ?_) (by omega)
  split
  · exact Nat.zero_le 1
  · next h0 => rw [Nat.sub_eq_zero_of_le (h l hl h0), pow_zero]

theorem lengthen_fits {freq : List Nat} {M : Nat} : ∀ {fuel : Nat} {len : List Nat}, len.length ≤ 2 ^ M → (∀ l ∈ len, l ≤ M) →
    (len.map (M - ·)).sum ≤ fuel → Limits M len (lengthen freq M fuel len) ∧ kraftSum M (lengthen freq M fuel len) ≤ 2 ^ M
  | 0, len, hlen, hle, hfuel => by
    refine ⟨.refl hle, kraftSum_le_of_max hlen fun l hl _ => ?_⟩
    have := List.sum_eq_zero_iff.1 (Nat.le_zero.1 hfuel) (M - l) (List.mem_map_of_mem hl)
    omega
  | fuel + 1, len, hlen, hle, hfuel => by
    rw [lengthen]
    dsimp only
    split
    · next hfits => exact ⟨.refl hle, hfits⟩
    split
    · next hnone =>
      refine ⟨.refl hle, kraftSum_le_of_max hlen fun l hl h0 => ?_⟩
      obtain ⟨k, hk, rfl⟩ := List.getElem_of_mem hl
      have := bestSymbol_none hnone k hk
      simp only [lget, hk, List.getElem?_eq_getElem, Option.getD_some, Bool.and_eq_false_iff, decide_eq_false_iff_not] at this
      omega
    · next s hsome =>
      obtain ⟨hs, hok⟩ := bestSymbol_some hsome
      obtain ⟨hused, hlt⟩ : lget len s 0 ≠ 0 ∧ lget len s 0 < M := by simpa using hok
      have hset := Limits.set (x := lget len s 0 + 1) hle hused (Nat.succ_ne_zero _) hlt
      have hsum := sum_map_set (M - ·) (lget len s 0 + 1) hs
      obtain ⟨hlimits, hfits⟩ := lengthen_fits (freq := freq) (fuel := fuel) (hset.length ▸ hlen) hset.le (by omega)
      exact ⟨hset.trans hlimits, hfits⟩

/-! ### Shortening until the code is complete (R502) -/

/-- A code with two used symbols that is not complete has one whose shortening fits: one of the longest. -/
theorem exists_shortenable {M i j : Nat} {len : List Nat} (hle : ∀ l ∈ len, l ≤ M) (hij : i ≠ j) (hi : lget len i 0 ≠ 0)
    (hj : lget len j 0 ≠ 0) (hunder : kraftSum M len < 2 ^ M) :
    ∃ s < len.length, 2 ≤ lget len s 0 ∧ 2 ^ (M - lget len s 0) ≤ 2 ^ M - kraftSum M len := by
  obtain ⟨s, hs, hmax⟩ := Finset.exists_max_image (Finset.range len.length) (fun k => lget len k 0)
    ⟨i, Finset.mem_range.2 (lget_mem hi).1⟩
  have hmax : ∀ k < len.length, lget len k 0 ≤ lget len s 0 := fun k hk => hmax k (Finset.mem_range.2 hk)
  refine ⟨s, Finset.mem_range.1 hs, ?_, ?_⟩
  · by_contra hshort
    have hone : ∀ k, lget len k 0 ≠ 0 → codeWeight M (lget len k 0) = 2 ^ (M - 1) := fun k hk => by
      rw [show lget len k 0 = 1 from by have := hmax k (lget_mem hk).1; omega]
      rfl
    have htwo := two_le_kraftSum (M := M) hij hi hj
    rw [hone i hi, hone j hj, ← two_mul, ← pow_succ'] at htwo
    have hM : M - 1 + 1 = M := by
      have := lget_le hle i
      omega
    rw [hM] at htwo
    omega
  · have hdvd : 2 ^ (M - lget len s 0) ∣ kraftSum M len := List.dvd_sum fun w hw => by
      obtain ⟨l, hl, rfl⟩ := List.mem_map.1 hw
      obtain ⟨k, hk, rfl⟩ := List.getElem_of_mem hl
      have hkmax := hmax k hk
      simp only [lget, hk, List.getElem?_eq_getElem, Option.getD_some] at hkmax
      split
      · exact dvd_zero _
      · exact pow_dvd_pow 2 (by simp only [lget] at *; omega)
    exact Nat.le_of_dvd (by omega) (Nat.dvd_sub (pow_dvd_pow 2 (Nat.sub_le _ _)) hdvd)

theorem shorten_complete {freq : List Nat} {M i j : Nat} (hij : i ≠ j) : ∀ {fuel : Nat} {len : List Nat}, (∀ l ∈ len, l ≤ M) →
    lget len i 0 ≠ 0 → lget len j 0 ≠ 0 → kraftSum M len ≤ 2 ^ M → len.sum ≤ fuel →
    Limits M len (shorten freq M fuel len) ∧ kraftSum M (shorten freq M fuel len) = 2 ^ M
  | 0, len, _, hi, _, _, hfuel => absurd (List.sum_eq_zero_iff.1 (Nat.le_zero.1 hfuel) _ (lget_mem hi).2) hi
  | fuel + 1, len, hle, hi, hj, hfits, hfuel => by
    rw [shorten]
    dsimp only
    split
    · next hfull => exact ⟨.refl hle, le_antisymm hfits hfull⟩
    next hunder =>
    split
    · next hnone =>
      obtain ⟨s, hs, htwo, hstep⟩ := exists_shortenable hle hij hi hj (not_le.1 hunder)
      have := bestSymbol_none hnone s hs
      simp [htwo, hstep] at this
    · next s hsome =>
      obtain ⟨hs, hok⟩ := bestSymbol_some hsome
      obtain ⟨htwo, hstep⟩ : 2 ≤ lget len s 0 ∧ 2 ^ (M - lget len s 0) ≤ 2 ^ M - kraftSum M len := by simpa using hok
      have hsM := lget_le hle s
      have hset := Limits.set (x := lget len s 0 - 1) (s := s) hle (by omega) (by omega) (by omega)
      have hsum := sum_map_set id (lget len s 0 - 1) hs
      simp only [List.map_id, id_eq] at hsum
      have hkraft := sum_map_set (codeWeight M) (lget len s 0 - 1) hs
      rw [← kraftSum_eq, ← kraftSum_eq, codeWeight, codeWeight, if_neg (by omega), if_neg (by omega),
        show M - (lget len s 0 - 1) = M - lget len s 0 + 1 from by omega, pow_succ] at hkraft
      obtain ⟨hlimits, hcomplete⟩ := shorten_complete (freq := freq) hij (fuel := fuel) hset.le (mt (hset.zero i).1 hi)
        (mt (hset.zero j).1 hj) (by omega) (by omega)
      exact ⟨hset.trans hlimits, hcomplete⟩

/-! ### HUFF_LIMIT (R502) -/

theorem huffLimitRef_complete {old freq : List Nat} {M i j : Nat} (hM : 0 < M) (hlen : old.length ≤ 2 ^ M) (hij : i ≠ j)
    (hi : lget old i 0 ≠ 0) (hj : lget old j 0 ≠ 0) :
    Limits M old (huffLimitRef old freq M) ∧ kraftSum M (huffLimitRef old freq M) = 2 ^ M := by
  have hclamp := Limits.clamp hM old
  obtain ⟨hlong, hfits⟩ := lengthen_fits (freq := freq) (fuel := old.length * M) (hclamp.length ▸ hlen) hclamp.le
    (by simpa using sum_map_le_mul (f := (M - ·)) (len := old.map fun l => min l M) fun l _ => Nat.sub_le M l)
  have hboth := hclamp.trans hlong
  obtain ⟨hshort, hcomplete⟩ := shorten_complete (freq := freq) (fuel := old.length * M) hij hboth.le (mt (hboth.zero i).1 hi)
    (mt (hboth.zero j).1 hj) hfits (by simpa [hboth.length] using sum_map_le_mul (f := id) hboth.le)
  exact ⟨hboth.trans hshort, hcomplete⟩

theorem limits_of_limitOk {old new : List Nat} {M : Nat} (h : limitOk old new M = true) : Limits M old new ∧ kraftSum M new = 2 ^ M := by
  simp only [limitOk, Bool.and_eq_true, beq_iff_eq, List.all_eq_true, decide_eq_true_eq] at h
  obtain ⟨⟨⟨hlen, hzero⟩, hle⟩, hkraft⟩ := h
  refine ⟨⟨hlen, fun k => ?_, hle⟩, hkraft⟩
  by_cases hk : k < old.length
  · have hpair : (old[k], new[k]'(hlen ▸ hk)) ∈ old.zip new := by
      rw [← List.getElem_zip (h := by simp [hlen, hk])]
      exact List.getElem_mem _
    have := hzero _ hpair
    simp only [lget, hk, hlen, List.getElem?_eq_getElem, Option.getD_some]
    rw [Bool.eq_iff_iff, beq_iff_eq, beq_iff_eq] at this
    exact this.symm
  · simp [lget, hlen, hk]

/-- Whatever HUFF_LIMIT is, it keeps the symbols used, limits the lengths, and completes the code. -/
theorem huffLimit_complete (p : Config.Params) {old freq : List Nat} {M i j : Nat} (hM : 0 < M)
    (hlen : old.length ≤ 2 ^ M) (hij : i ≠ j) (hi : lget old i 0 ≠ 0) (hj : lget old j 0 ≠ 0) :
    Limits M old (huffLimit p old freq M) ∧ kraftSum M (huffLimit p old freq M) = 2 ^ M := by
  have href := huffLimitRef_complete (freq := freq) hM hlen hij hi hj
  rw [huffLimit]
  split
  · exact href
  · split
    · next hok => exact limits_of_limitOk hok
    · exact href

/-! ### BuildLengths (R500) -/

theorem buildLengths_none {p : Config.Params} {freq : List Nat} {M : Nat} (h : usedSymbols freq = []) : buildLengths p freq M = none := by
  refine if_pos (List.all_eq_true.2 fun f hf => ?_)
  obtain ⟨k, hk, rfl⟩ := List.getElem_of_mem hf
  have hzero : lget freq k 0 = 0 := not_not.1 fun hne => List.not_mem_nil (h ▸ mem_usedSymbols.2 hne)
  simpa [lget, hk] using hzero

theorem buildLengths_some {p : Config.Params} {freq : List Nat} {M : Nat} (h : usedSymbols freq ≠ []) : buildLengths p freq M =
    some (if (treeLengths freq).any (fun l => decide (M < l)) then huffLimit p (treeLengths freq) freq M else treeLengths freq) := by
  obtain ⟨k, hk⟩ := List.exists_mem_of_ne_nil _ h
  have hused := mem_usedSymbols.1 hk
  refine if_neg fun hall => hused ?_
  simpa using List.all_eq_true.1 hall _ (lget_mem hused).2

theorem buildLengths_fit {p : Config.Params} {freq : List Nat} {M : Nat} (h : usedSymbols freq ≠ [])
    (hfit : ∀ l ∈ treeLengths freq, l ≤ M) : buildLengths p freq M = some (treeLengths freq) := by
  rw [buildLengths_some h, if_neg]
  simpa using hfit

theorem exists_two_used {freq : List Nat} (h : 2 ≤ (usedSymbols freq).length) :
    ∃ i j, i ≠ j ∧ lget freq i 0 ≠ 0 ∧ lget freq j 0 ≠ 0 := by
  have hnodup := nodup_usedSymbols freq
  match hused : usedSymbols freq with
  | [] | [_] => simp [hused] at h
  | i :: j :: rest =>
    have hmem : ∀ k ∈ i :: j :: rest, lget freq k 0 ≠ 0 := fun k hk => mem_usedSymbols.1 (hused ▸ hk)
    rw [hused] at hnodup
    exact ⟨i, j, fun hij => (List.nodup_cons.1 hnodup).1 (hij ▸ List.mem_cons_self), hmem i (by simp), hmem j (by simp)⟩

/-- With two or more used symbols the code is complete, within the maximum, and has a codeword for each of them. -/
theorem buildLengths_complete (p : Config.Params) {freq : List Nat} {M : Nat} (hM : 0 < M) (htwo : 2 ≤ (usedSymbols freq).length)
    (hlen : freq.length ≤ 2 ^ M) : ∃ len, buildLengths p freq M = some len ∧ Limits M freq len ∧ kraftSum M len = 2 ^ M := by
  have hne : usedSymbols freq ≠ [] := List.ne_nil_of_length_pos (by omega)
  by_cases hfit : ∀ l ∈ treeLengths freq, l ≤ M
  · exact ⟨_, buildLengths_fit hne hfit, ⟨length_treeLengths freq, lget_treeLengths htwo, hfit⟩, kraftSum_treeLengths htwo hfit⟩
  · obtain ⟨i, j, hij, hi, hj⟩ := exists_two_used htwo
    obtain ⟨⟨hlength, hzero, hle⟩, hkraft⟩ := huffLimit_complete (freq := freq) p hM (length_treeLengths freq ▸ hlen) hij
      (mt (lget_treeLengths htwo i).1 hi) (mt (lget_treeLengths htwo j).1 hj)
    refine ⟨_, ?_, ⟨hlength.trans (length_treeLengths freq), fun k => (hzero k).trans (lget_treeLengths htwo k), hle⟩, hkraft⟩
    rw [buildLengths_some hne, if_pos]
    simpa using hfit

end Sys2Proof.Machine

namespace Sys2Proof.Machine

/-! ### BITS and HUFFVAL (R503) -/

/-- The symbols of one length, in order. -/
def symbolsOf (len : List Nat) (l : Nat) : List Nat := (List.range len.length).filter fun k => lget len k 0 == l

theorem mem_symbolsOf {len : List Nat} {l k : Nat} : k ∈ symbolsOf len l ↔ k < len.length ∧ lget len k 0 = l := by
  simp [symbolsOf]

theorem map_lget_range (l : List Nat) : (List.range l.length).map (fun k => lget l k 0) = l :=
  List.ext_getElem (by simp) fun k _ hk => by simp [lget, hk]

theorem length_symbolsOf (len : List Nat) (l : Nat) : (symbolsOf len l).length = (len.filter (· == l)).length := by
  conv_rhs => rw [← map_lget_range len, List.filter_map, List.length_map]
  rfl

theorem bitsOf_eq (len : List Nat) : bitsOf len = (List.range' 1 16).map fun l => (symbolsOf len l).length := by
  simp only [bitsOf, List.range'_eq_map_range, List.map_map, Function.comp_def, length_symbolsOf, Nat.add_comm]

/-- The used symbols by length, then by value. -/
def codeSymbols (len : List Nat) : List Nat := (List.range' 1 16).flatMap (symbolsOf len)

theorem huffvalOf_eq_flatMap (len : List Nat) :
    huffvalOf len = (List.range' 1 16).flatMap fun l => (symbolsOf len l).map (BitVec.ofNat 8) := by
  simp only [huffvalOf, List.range'_eq_map_range, List.flatMap_map, symbolsOf, Nat.add_comm]

theorem huffvalOf_eq_map (len : List Nat) : huffvalOf len = (codeSymbols len).map (BitVec.ofNat 8) := by
  rw [huffvalOf_eq_flatMap, codeSymbols, List.map_flatMap]

theorem length_huffvalOf (len : List Nat) : (huffvalOf len).length = (bitsOf len).sum := by
  simp only [huffvalOf_eq_flatMap, List.length_flatMap, List.length_map, bitsOf_eq]

theorem mem_codeSymbols {len : List Nat} (hle : ∀ l ∈ len, l ≤ 16) {k : Nat} : k ∈ codeSymbols len ↔ lget len k 0 ≠ 0 := by
  simp only [codeSymbols, List.mem_flatMap, List.mem_range'_1, mem_symbolsOf]
  constructor
  · rintro ⟨l, ⟨hl, -⟩, -, rfl⟩
    omega
  · intro hk
    have hmem := lget_mem hk
    have := hle _ hmem.2
    exact ⟨lget len k 0, by omega, hmem.1, rfl⟩

/-- Shorter codes first; of one length, the smaller symbol first. -/
def CodeOrder (len : List Nat) (j k : Nat) : Prop := lget len j 0 < lget len k 0 ∨ (lget len j 0 = lget len k 0 ∧ j < k)

theorem pairwise_codeSymbols (len : List Nat) : (codeSymbols len).Pairwise (CodeOrder len) := by
  refine List.pairwise_flatMap.2 ⟨fun l _ => ?_, ?_⟩
  · refine (List.pairwise_lt_range.filter _).imp_of_mem fun {j k} hj hk hjk => .inr ⟨?_, hjk⟩
    exact (mem_symbolsOf.1 hj).2.trans (mem_symbolsOf.1 hk).2.symm
  · refine (List.pairwise_lt_range' (s := 1) (n := 16)).imp fun {l m} hlm j hj k hk => .inl ?_
    rw [(mem_symbolsOf.1 hj).2, (mem_symbolsOf.1 hk).2]
    exact hlm

section
variable {len : List Nat} (hsize : len.length ≤ 256)
include hsize

theorem toNat_symbol {k : Nat} (h : k < len.length) : (BitVec.ofNat 8 k).toNat = k := by
  rw [BitVec.toNat_ofNat, Nat.mod_eq_of_lt (by omega)]

theorem mem_huffvalOf (hle : ∀ l ∈ len, l ≤ 16) (v : Byte) : v ∈ huffvalOf len ↔ lget len v.toNat 0 ≠ 0 := by
  rw [huffvalOf_eq_map, List.mem_map]
  constructor
  · rintro ⟨k, hk, rfl⟩
    have hused := (mem_codeSymbols hle).1 hk
    rwa [toNat_symbol hsize (lget_mem hused).1]
  · exact fun hv => ⟨v.toNat, (mem_codeSymbols hle).2 hv, by simp⟩

theorem pairwise_huffvalOf (hle : ∀ l ∈ len, l ≤ 16) : (huffvalOf len).Pairwise fun v w => CodeOrder len v.toNat w.toNat := by
  rw [huffvalOf_eq_map, List.pairwise_map]
  refine (pairwise_codeSymbols len).imp_of_mem fun {j k} hj hk hjk => ?_
  rwa [toNat_symbol hsize (lget_mem ((mem_codeSymbols hle).1 hj)).1, toNat_symbol hsize (lget_mem ((mem_codeSymbols hle).1 hk)).1]

theorem nodup_huffvalOf (hle : ∀ l ∈ len, l ≤ 16) : (huffvalOf len).Nodup :=
  (pairwise_huffvalOf hsize hle).imp fun {v w} h heq => by
    subst heq
    unfold CodeOrder at h
    omega

end

/-! ### The codewords (R290, R503) -/

/-- With the symbols of each length in turn, a code has the length its symbol stands under. -/
theorem assignCodes_lengths {symbols : Nat → List Byte} {c : Code} : ∀ {n len code : Nat} {codes : List Code},
    assignCodes len ((List.range' len n).map fun l => (symbols l).length) code ((List.range' len n).flatMap symbols) = some codes →
    c ∈ codes → c.sym ∈ symbols c.len
  | 0, _, _, _, h, hc => by
    cases h
    cases hc
  | n + 1, len, code, codes, h, hc => by
    rw [List.range'_succ, List.map_cons, List.flatMap_cons] at h
    obtain ⟨-, -, rest, hrest, rfl⟩ := assignCodes_cons h
    rw [List.drop_left] at hrest
    rw [List.take_left] at hc
    rcases List.mem_append.1 hc with hc | hc
    · rw [(mem_codeRun hc).1, ← map_sym_codeRun len code (symbols len)]
      exact List.mem_map_of_mem hc
    · exact assignCodes_lengths hrest hc

/-- A value of each code, put at its symbol. -/
def codeLookup (f : Code → Nat) (v : Vector Nat 256) (codes : List Code) : Vector Nat 256 :=
  codes.foldl (fun v c => vset v c.sym.toNat (f c)) v

theorem assignEncCodes_eq {len : List Nat} {codes : List Code} (h : buildTrie (bitsOf len) (huffvalOf len) = some codes) :
    assignEncCodes len =
      some (codeLookup (·.code) (Vector.replicate 256 0) codes, codeLookup (·.len) (Vector.replicate 256 0) codes) := by
  rw [assignEncCodes, h]
  rfl

theorem vget_codeLookup_other (f : Code → Nat) {sym : Byte} : ∀ {codes : List Code} {v : Vector Nat 256}, sym ∉ codes.map (·.sym) →
    vget (codeLookup f v codes) sym.toNat 0 = vget v sym.toNat 0
  | [], _, _ => rfl
  | c :: codes, v, h => by
    rw [List.map_cons, List.mem_cons, not_or] at h
    rw [codeLookup, List.foldl_cons, ← codeLookup, vget_codeLookup_other f h.2]
    exact vget_vset_ne v (fun heq => h.1 (BitVec.eq_of_toNat_eq heq.symm)) _ _

theorem vget_codeLookup_of_mem (f : Code → Nat) {c : Code} : ∀ {codes : List Code} {v : Vector Nat 256}, (codes.map (·.sym)).Nodup →
    c ∈ codes → vget (codeLookup f v codes) c.sym.toNat 0 = f c
  | d :: codes, v, hnodup, hc => by
    obtain ⟨hd, hnodup⟩ := List.nodup_cons.1 hnodup
    rw [codeLookup, List.foldl_cons, ← codeLookup]
    rcases List.mem_cons.1 hc with rfl | hc
    · rw [vget_codeLookup_other f hd, vget_vset_same c.sym.isLt]
    · exact vget_codeLookup_of_mem f hnodup hc

section
variable {len : List Nat} {codes : List Code} (hbuild : buildTrie (bitsOf len) (huffvalOf len) = some codes)
include hbuild

theorem map_sym_encCodes : codes.map (·.sym) = huffvalOf len := by
  rw [(assignCodes_syms hbuild).2, ← length_huffvalOf, List.take_length]

theorem len_encCodes (hsize : len.length ≤ 256) {c : Code} (hc : c ∈ codes) : c.len = lget len c.sym.toNat 0 := by
  have hbuild' := hbuild
  rw [buildTrie, huffvalOf_eq_flatMap, bitsOf_eq] at hbuild'
  have hmem := assignCodes_lengths (symbols := fun l => (symbolsOf len l).map (BitVec.ofNat 8)) (by simpa using hbuild') hc
  obtain ⟨k, hk, hsym⟩ := List.mem_map.1 hmem
  obtain ⟨hlt, hlen⟩ := mem_symbolsOf.1 hk
  rw [← hsym, toNat_symbol hsize hlt, hlen]

/-- AssignCodes gives each symbol of the trie its codeword, and every symbol its length. -/
theorem assignEncCodes_spec (hsize : len.length ≤ 256) (hle : ∀ l ∈ len, l ≤ 16) : ∃ co si, assignEncCodes len = some (co, si) ∧
    (∀ c ∈ codes, vget co c.sym.toNat 0 = c.code) ∧ ∀ k < len.length, vget si k 0 = lget len k 0 := by
  have hsyms := map_sym_encCodes hbuild
  have hnodup : (codes.map (·.sym)).Nodup := hsyms ▸ nodup_huffvalOf hsize hle
  refine ⟨_, _, assignEncCodes_eq hbuild, fun c hc => vget_codeLookup_of_mem _ hnodup hc, fun k hk => ?_⟩
  have hnat := toNat_symbol hsize hk
  have hmem := hsyms ▸ mem_huffvalOf hsize hle (BitVec.ofNat 8 k)
  rw [hnat] at hmem
  by_cases hused : lget len k 0 = 0
  · have := vget_codeLookup_other (·.len) (v := Vector.replicate 256 0) (mt hmem.1 (not_not.2 hused))
    rw [hnat, vget_replicate] at this
    rw [this, hused]
  · obtain ⟨c, hc, hsym⟩ := List.mem_map.1 (hmem.2 hused)
    have := vget_codeLookup_of_mem (·.len) (v := Vector.replicate 256 0) hnodup hc
    rwa [len_encCodes hbuild hsize hc, hsym, hnat] at this

end

/-- The complete code's sum, taken over the symbols with a frequency. -/
theorem kraftSum_of_limits {M : Nat} {freq len : List Nat} (h : Limits M freq len) :
    ((List.range freq.length).map fun k => if lget freq k 0 = 0 then 0 else 2 ^ (M - lget len k 0)).sum = kraftSum M len := by
  conv_rhs => rw [kraftSum_eq, ← map_lget_range len, List.map_map, h.length]
  refine congrArg List.sum (List.map_congr_left fun k _ => ?_)
  simp only [Function.comp_apply, codeWeight, h.zero k]

theorem buildLengths_single {p : Config.Params} {freq : List Nat} {M k : Nat} (hM : 0 < M) (h : usedSymbols freq = [k]) :
    buildLengths p freq M = some ((List.range freq.length).map fun j => if j = k then 1 else 0) := by
  rw [buildLengths_fit (by simp [h]), treeLengths_single h]
  rw [treeLengths_single h, List.forall_mem_map]
  intro j _
  split <;> omega

/-- Settles O55: the sorted merge is the merge of the two smallest keys; the tree fills its depth, and the limit lengthens until the code
fits, then shortens until it is complete; HUFFVAL gives each length its symbols in order, so the codes assigned have their lengths. -/
theorem encoderCodeLengths : Obligations.EncoderCodeLengths := by
  refine ⟨fun params freq => ⟨buildLengths_none, fun k => buildLengths_single (by decide), fun htwo hfit => ?_, fun htwo hsize => ?_⟩,
    fun len codes hsize hle => ⟨fun l hl => ?_, by simp [bitsOf], mem_huffvalOf hsize hle, pairwise_huffvalOf hsize hle,
      fun hbuild => assignEncCodes_spec hbuild hsize hle⟩⟩
  · rw [List.length_map] at hfit ⊢
    have htree := treeLengths_eq htwo
    have hne : usedSymbols freq ≠ [] := List.ne_nil_of_length_pos (Nat.lt_of_lt_of_le Nat.two_pos htwo)
    exact (buildLengths_fit hne (htree ▸ hfit)).trans (congrArg some htree)
  · obtain ⟨len, hbuild, hlimits, hkraft⟩ := buildLengths_complete params (M := 16) (by decide) htwo (by omega)
    exact ⟨len, hbuild, hlimits.length, fun k _ => ⟨lget_le hlimits.le k, hlimits.zero k⟩,
      (kraftSum_of_limits hlimits).trans hkraft⟩
  · simp [bitsOf, lget, hl, List.count_eq_length_filter]

end Sys2Proof.Machine

namespace Sys2Proof.Machine

/-! ### The statistics bins (R341, R347, R349) -/

theorem vget_vset {α : Type} {n : Nat} (v : Vector α n) (i j : Nat) (x d : α) :
    vget (vset v i x) j d = if i = j ∧ i < n then x else vget v j d := by
  by_cases hij : i = j
  · subst hij
    by_cases hi : i < n
    · rw [if_pos ⟨rfl, hi⟩, vget_vset_same hi]
    · rw [if_neg fun h => hi h.2, vset, Vector.setIfInBounds_eq_of_size_le (Nat.le_of_not_lt hi)]
  · rw [if_neg fun h => hij h.1, vget_vset_ne v hij]

/-- The bin is one of the tables: FIXED is none of them. -/
def Bin.inTable : Bin → Bool
  | .dc t i => decide (t < 4 ∧ i < 64)
  | .ac t i => decide (t < 4 ∧ i < 256)
  | .ll t _ => decide (t < 4)
  | .fixed => false

/-- A bin of a table of rows, one for each table number, read after one was set. -/
theorem vget_vset_row {n m : Nat} (v : Vector (Vector Byte n) m) (d : Vector Byte n) (t i t' i' : Nat) (b : Byte) :
    vget (vget (vset v t (vset (vget v t d) i b)) t' d) i' 0 =
      if (t = t' ∧ i = i') ∧ t < m ∧ i < n then b else vget (vget v t' d) i' 0 := by
  rw [vget_vset]
  by_cases ht : t = t' ∧ t < m
  · obtain ⟨rfl, hm⟩ := ht
    simp only [true_and, hm, if_true, vget_vset]
  · rw [if_neg ht, if_neg fun h => ht ⟨h.1.1, h.2.1⟩]

/-- The bin that was set has its new byte, every other one the byte it had. -/
theorem binByte_setBin {st : Stats} (hst : st.ok) (bin bin' : Bin) (v : Byte) :
    (st.setBin bin v).binByte bin' = if bin = bin' ∧ bin.inTable then v else st.binByte bin' := by
  cases bin with
  | fixed => exact (if_neg fun h => Bool.noConfusion h.2).symm
  | dc t i =>
    cases bin' with
    | dc t' i' => simp only [Stats.setBin, Stats.binByte, vget_vset_row, Bin.dc.injEq, Bin.inTable, decide_eq_true_eq]
    | _ => exact (if_neg fun h => by cases h.1).symm
  | ac t i =>
    cases bin' with
    | ac t' i' => simp only [Stats.setBin, Stats.binByte, vget_vset_row, Bin.ac.injEq, Bin.inTable, decide_eq_true_eq]
    | _ => exact (if_neg fun h => by cases h.1).symm
  | ll t i =>
    cases bin' with
    | ll t' i' =>
      simp only [Stats.setBin, Stats.binByte, vget_vset, Bin.ll.injEq, Bin.inTable, decide_eq_true_eq]
      by_cases ht : t = t' ∧ t < 4
      · obtain ⟨rfl, h4⟩ := ht
        simp only [true_and, h4, and_true, if_true, cellsRead_write (hst t), eq_comm]
      · rw [if_neg ht, if_neg fun h => ht ⟨h.1.1, h.2⟩]
    | _ => exact (if_neg fun h => by cases h.1).symm

theorem setBin_ok {st : Stats} (hst : st.ok) (bin : Bin) (v : Byte) : (st.setBin bin v).ok := by
  cases bin with
  | ll t i =>
    intro t'
    simp only [Stats.setBin, vget_vset]
    split
    · exact cellsFrom_write (hst t) (Nat.zero_le i) v
    · exact hst t'
  | _ => exact hst

end Sys2Proof.Machine

namespace Sys2Proof.Machine

/-! ### Renormalisation (R342, R343, R344, R346) -/

/-- What ByteIn changes: the reader, ZFILL and the free-value counter; the interval's end stays. -/
def Fetched (s t : State) : Prop :=
  t = { s with rd := { t.rd with segEnd := s.rd.segEnd }, qm := { s.qm with zfill := t.qm.zfill }, draws := t.draws }

theorem fetched_chain : Chain Fetched where
  refl _ := rfl
  trans := by
    intro s t u hst htu
    unfold Fetched at *
    rw [htu, hst]

theorem fetched_byteIn : Stays Fetched byteIn := by
  refine stays_bind fetched_chain (stays_get fetched_chain) fun _ => stays_ite ?_ ?_
  · exact stays_bind fetched_chain (stays_update fun _ => rfl) fun _ => stays_pure fetched_chain _
  · refine stays_bind fetched_chain ((reads_memRead1 _).mono fun h => ?_) fun _ =>
      stays_bind fetched_chain (stays_update fun _ => rfl) fun _ => stays_pure fetched_chain _
    unfold Reads at h
    unfold Fetched
    rw [h]

/-- What decoding changes before the decision: the reader, the coder and the free-value counter; the bins stay. -/
def Renormed (s t : State) : Prop := t = { s with rd := { t.rd with segEnd := s.rd.segEnd }, qm := t.qm, draws := t.draws }

theorem renormed_chain : Chain Renormed where
  refl _ := rfl
  trans := by
    intro s t u hst htu
    unfold Renormed at *
    rw [htu, hst]

theorem renormed_byteIn : Stays Renormed byteIn := fetched_byteIn.mono fun h => by
  unfold Fetched at h
  unfold Renormed
  rw [h]

theorem renormed_renormRound : Stays Renormed renormRound := by
  refine stays_bind renormed_chain (stays_get renormed_chain) fun _ => stays_ite ?_ (stays_update fun _ => rfl)
  exact stays_bind renormed_chain renormed_byteIn fun _ => stays_update fun _ => rfl

theorem renormed_renorm : ∀ fuel, Stays Renormed (renorm fuel)
  | 0 => stays_stop _
  | fuel + 1 => stays_bind renormed_chain (stays_get renormed_chain) fun _ => stays_ite
      (stays_bind renormed_chain renormed_renormRound fun _ => renormed_renorm fuel) (stays_pure renormed_chain _)

/-- Inside the input ByteIn always has a byte. -/
theorem byteIn_ok {s : State} (h : s.rd.segEnd ≤ s.inLen) : ∃ b u, byteIn s = .ok (b, u) := by
  by_cases hend : s.rd.segEnd ≤ s.rd.bp
  · exact ⟨_, _, byteIn_past hend⟩
  · have hread : memRead1 s.rd.bp s = .ok (s.engineLoad (s.inAddr s.rd.bp)) := by
      simp only [memRead1, act_bind, act_get, act_ite, if_neg (show ¬ s.rd.bp + 1 > s.inLen by omega), loadByte]
    simp only [byteIn, act_bind, act_get, act_ite, ge_iff_le, if_neg hend, hread, act_update, act_pure]
    exact ⟨_, _, rfl⟩

/-- The state with A, C and CT replaced. -/
def State.withCoder (s : State) (a : BitVec 17) (c : BitVec 32) (ct : Int) : State :=
  { s with qm := { s.qm with a := a, c := c, ct := ct } }

@[simp] theorem State.withCoder_a (s : State) (a : BitVec 17) (c : BitVec 32) (ct : Int) : (s.withCoder a c ct).qm.a = a := rfl
@[simp] theorem State.withCoder_c (s : State) (a : BitVec 17) (c : BitVec 32) (ct : Int) : (s.withCoder a c ct).qm.c = c := rfl
@[simp] theorem State.withCoder_ct (s : State) (a : BitVec 17) (c : BitVec 32) (ct : Int) : (s.withCoder a c ct).qm.ct = ct := rfl

theorem engineLoad_withCoder (s : State) (a : BitVec 17) (c : BitVec 32) (ct : Int) (off : Nat) :
    (s.withCoder a c ct).engineLoad off = ((s.engineLoad off).1, (s.engineLoad off).2.withCoder a c ct) := by
  have hload : (s.withCoder a c ct).load off = ((s.load off).1, (s.load off).2.withCoder a c ct) := by
    unfold State.load
    by_cases h : s.mem.unknown off = true
    · rw [if_pos h, if_pos (show (s.withCoder a c ct).mem.unknown off = true from h)]
      rfl
    · rw [if_neg h, if_neg (show ¬ (s.withCoder a c ct).mem.unknown off = true from h)]
      rfl
  unfold State.engineLoad
  by_cases h : s.arena.used ≠ 0 ∧ s.inArena off = true
  · rw [if_pos h, if_pos (show (s.withCoder a c ct).arena.used ≠ 0 ∧ (s.withCoder a c ct).inArena off = true from h)]
    rfl
  · rw [if_neg h, if_neg (show ¬ ((s.withCoder a c ct).arena.used ≠ 0 ∧ (s.withCoder a c ct).inArena off = true) from h), hload]

/-- The byte read does not depend on A, C and CT. -/
theorem oblivious_byteIn_withCoder (a : BitVec 17) (c : BitVec 32) (ct : Int) : Oblivious (·.withCoder a c ct) byteIn := by
  have hload (off : Nat) : Oblivious (·.withCoder a c ct) (loadByte off) := fun s =>
    congrArg Except.ok (engineLoad_withCoder s a c ct off)
  refine oblivious_read (fun _ => rfl) fun s => oblivious_ite ?_ ?_
  · exact oblivious_bind (oblivious_update fun _ => rfl) fun _ => oblivious_pure _
  · refine oblivious_bind (oblivious_read (fun _ => rfl) fun _ => oblivious_ite (oblivious_raise _) (hload _)) fun b => ?_
    exact oblivious_bind (oblivious_update fun _ => rfl) fun _ => oblivious_pure _

/-! #### One round -/

theorem shiftLeft_one_a (a : BitVec 17) : a <<< 1 = BitVec.ofNat 17 (2 * a.toNat) := by
  apply BitVec.eq_of_toNat_eq
  rw [BitVec.toNat_shiftLeft, BitVec.toNat_ofNat, Nat.shiftLeft_eq, pow_one, Nat.mul_comm]

/-- A byte taken into C. -/
theorem shiftLeft_or_byte (c : BitVec 32) (b : Byte) : c <<< 8 ||| b.setWidth 32 = BitVec.ofNat 32 (c.toNat * 256 + b.toNat) := by
  have hc : (c <<< 8).toNat = 2 ^ 8 * (c.toNat % 2 ^ 24) := by
    rw [BitVec.toNat_shiftLeft, Nat.shiftLeft_eq]
    omega
  have hb : (b.setWidth 32).toNat = b.toNat := by rw [BitVec.toNat_setWidth, Nat.mod_eq_of_lt (by omega)]
  apply BitVec.eq_of_toNat_eq
  rw [BitVec.toNat_or, hc, hb, ← Nat.two_pow_add_eq_or_of_lt b.isLt, BitVec.toNat_ofNat]
  omega

/-- A round without a byte. -/
theorem renormRound_shift {s : State} (hct : 1 ≤ s.qm.ct) :
    renormRound s = .ok ((), s.withCoder (BitVec.ofNat 17 (2 * s.qm.a.toNat)) s.qm.c (s.qm.ct - 1)) := by
  simp only [renormRound, act_bind, act_get, act_ite, if_neg (show ¬ s.qm.ct - 1 < 0 by omega), act_update, shiftLeft_one_a]
  rfl

theorem renormRound_error {s : State} {e : Stop} (hct : s.qm.ct ≤ 0) (h : byteIn s = .error e) : renormRound s = .error e := by
  simp only [renormRound, act_bind, act_get, act_ite, if_pos (show s.qm.ct - 1 < 0 by omega), h]

/-- A round that takes a byte. -/
theorem renormRound_fetch {s u : State} {b : Byte} (hct : s.qm.ct ≤ 0) (h : byteIn s = .ok (b, u)) :
    renormRound s = .ok ((), u.withCoder ((if s.qm.ct + 7 < 0 ∧ s.qm.ct + 8 = 0 then 0x8000 else s.qm.a) <<< 1)
      (BitVec.ofNat 32 (s.qm.c.toNat * 256 + b.toNat)) (if s.qm.ct + 7 < 0 then s.qm.ct + 8 else s.qm.ct + 7)) := by
  have hu : Fetched s u := (fetched_byteIn s).1 _ _ h
  have ha : u.qm.a = s.qm.a := by rw [hu]
  have hc : u.qm.c = s.qm.c := by rw [hu]
  have h7 : s.qm.ct - 1 + 8 = s.qm.ct + 7 := by omega
  have h8 : s.qm.ct + 7 + 1 = s.qm.ct + 8 := by omega
  simp only [renormRound, act_bind, act_get, act_ite, if_pos (show s.qm.ct - 1 < 0 by omega), h, act_update, h7, h8, ha, hc,
    shiftLeft_or_byte]
  rfl

/-- CT has run out: a byte comes in and lasts for eight rounds. -/
theorem renormRound_byte {s u : State} {b : Byte} (hct : s.qm.ct = 0) (h : byteIn s = .ok (b, u)) :
    renormRound s = .ok ((), u.withCoder (BitVec.ofNat 17 (2 * s.qm.a.toNat)) (BitVec.ofNat 32 (s.qm.c.toNat * 256 + b.toNat)) 7) := by
  rw [renormRound_fetch (by omega) h, hct, shiftLeft_one_a]
  rfl

/-! #### The loop -/

theorem renorm_done {s : State} (h : 0x8000 ≤ s.qm.a.toNat) (n : Nat) : renorm (n + 1) s = .ok ((), s) := by
  simp only [renorm, act_bind, act_get, act_ite, if_neg (Nat.not_lt.2 h), act_pure]

theorem renorm_round {s : State} (h : s.qm.a.toNat < 0x8000) (n : Nat) :
    renorm (n + 1) s = (renormRound >>= fun _ => renorm n) s := by
  simp only [renorm, act_bind, act_get, act_ite, if_pos h]

theorem renorm_round_ok {s t : State} (h : s.qm.a.toNat < 0x8000) (hround : renormRound s = .ok ((), t)) (n : Nat) :
    renorm (n + 1) s = renorm n t := by
  rw [renorm_round h, act_bind, hround]

/-- A, C and CT once the start bytes are in: within the bounds of R346. -/
def Coder.Running (q : Coder) : Prop :=
  1 ≤ q.a.toNat ∧ q.a.toNat ≤ 0x10000 ∧ 0 ≤ q.ct ∧ q.ct ≤ 7 ∧ q.c.toNat < q.a.toNat * 2 ^ q.ct.toNat

/-- A round doubles A and keeps the bounds. -/
theorem renormRound_running {s t : State} (hq : s.qm.Running) (ha : s.qm.a.toNat < 0x8000) (h : renormRound s = .ok ((), t)) :
    t.qm.Running ∧ t.qm.a.toNat = 2 * s.qm.a.toNat := by
  obtain ⟨h1, -, h0, h7, hc⟩ := hq
  have hdouble : (BitVec.ofNat 17 (2 * s.qm.a.toNat)).toNat = 2 * s.qm.a.toNat := by
    rw [BitVec.toNat_ofNat, Nat.mod_eq_of_lt (by omega)]
  by_cases hct : s.qm.ct = 0
  · cases hb : byteIn s with
    | error e => rw [renormRound_error hct.le hb] at h; cases h
    | ok p =>
      rw [renormRound_byte hct hb] at h
      cases h
      have hbyte := p.1.isLt
      rw [hct] at hc
      simp only [Int.toNat_zero, pow_zero, mul_one] at hc
      have h128 : 2 ^ (7 : Int).toNat = 128 := rfl
      simp only [Coder.Running, State.withCoder_a, State.withCoder_c, State.withCoder_ct, hdouble, h128, BitVec.toNat_ofNat, and_true]
      omega
  · rw [renormRound_shift (by omega)] at h
    cases h
    have hpow : 2 * s.qm.a.toNat * 2 ^ (s.qm.ct - 1).toNat = s.qm.a.toNat * 2 ^ s.qm.ct.toNat := by
      rw [mul_comm 2, mul_assoc, ← pow_succ', show (s.qm.ct - 1).toNat + 1 = s.qm.ct.toNat by omega]
    simp only [Coder.Running, State.withCoder_a, State.withCoder_c, State.withCoder_ct, hdouble, hpow, and_true]
    omega

theorem renormRound_ok {s : State} (hq : s.qm.Running) (h : s.rd.segEnd ≤ s.inLen) : ∃ t, renormRound s = .ok ((), t) := by
  obtain ⟨-, -, h0, -⟩ := hq
  by_cases hct : s.qm.ct = 0
  · obtain ⟨b, u, hb⟩ := byteIn_ok h
    exact ⟨_, renormRound_byte hct hb⟩
  · exact ⟨_, renormRound_shift (by omega)⟩

theorem Renormed.inside {s t : State} (h : Renormed s t) (hin : s.rd.segEnd ≤ s.inLen) : t.rd.segEnd ≤ t.inLen := by
  rw [h]
  exact hin

/-- Enough rounds end with a renormalised A. -/
theorem renorm_running : ∀ {n : Nat} {s : State}, s.qm.Running → s.rd.segEnd ≤ s.inLen → 0x8000 ≤ s.qm.a.toNat * 2 ^ n →
    ∃ t, renorm (n + 1) s = .ok ((), t) ∧ t.qm.Running ∧ 0x8000 ≤ t.qm.a.toNat
  | 0, s, hq, _, hn => by
    rw [pow_zero, mul_one] at hn
    exact ⟨s, renorm_done hn 0, hq, hn⟩
  | n + 1, s, hq, hin, hn => by
    by_cases ha : s.qm.a.toNat < 0x8000
    · obtain ⟨u, hu⟩ := renormRound_ok hq hin
      obtain ⟨hqu, hau⟩ := renormRound_running hq ha hu
      rw [renorm_round_ok ha hu]
      refine renorm_running hqu (((renormed_renormRound s).1 _ _ hu).inside hin) ?_
      rw [hau, mul_comm 2, mul_assoc, ← pow_succ']
      exact hn
    · exact ⟨s, renorm_done (Nat.not_lt.1 ha) _, hq, Nat.not_lt.1 ha⟩

/-- Rounds beyond those needed change nothing. -/
theorem renorm_succ : ∀ {n : Nat} {s : State}, s.qm.Running → 0x8000 ≤ s.qm.a.toNat * 2 ^ n → renorm (n + 2) s = renorm (n + 1) s
  | 0, s, _, hn => by
    rw [pow_zero, mul_one] at hn
    rw [renorm_done hn, renorm_done hn]
  | n + 1, s, hq, hn => by
    by_cases ha : s.qm.a.toNat < 0x8000
    · rw [renorm_round ha, renorm_round ha]
      refine act_bind_congr fun _ u hu => ?_
      obtain ⟨hqu, hau⟩ := renormRound_running hq ha hu
      refine renorm_succ hqu ?_
      rw [hau, mul_comm 2, mul_assoc, ← pow_succ']
      exact hn
    · rw [renorm_done (Nat.not_lt.1 ha), renorm_done (Nat.not_lt.1 ha)]

/-- The two start bytes of an interval (R342). -/
theorem renorm_start {s u v : State} {b b' : Byte} (ha : s.qm.a = 0) (hc : s.qm.c = 0) (hct : s.qm.ct = -16)
    (hb : byteIn s = .ok (b, u)) (hb' : byteIn u = .ok (b', v)) (n : Nat) :
    renorm (n + 2) s = renorm n (v.withCoder 0x10000 (BitVec.ofNat 32 (b.toNat * 256 + b'.toNat)) 0) := by
  have h1 : renormRound s = .ok ((), u.withCoder 0 (BitVec.ofNat 32 b.toNat) (-8)) := by
    rw [renormRound_fetch (by omega) hb, if_neg (by omega), if_pos (by omega), ha, hc, hct]
    simp
  have h2 := renormRound_fetch (by simp) ((oblivious_byteIn_withCoder 0 (BitVec.ofNat 32 b.toNat) (-8)).ok hb')
  have hbyte : (BitVec.ofNat 32 b.toNat).toNat = b.toNat := by rw [BitVec.toNat_ofNat, Nat.mod_eq_of_lt (by omega)]
  rw [renorm_round_ok (by simp [ha]) h1, renorm_round_ok (by simp) h2]
  simp only [State.withCoder_ct, State.withCoder_c, hbyte]
  rfl

end Sys2Proof.Machine

namespace Sys2Proof.Machine

/-! ### The decision (R340, R344) -/

/-- The index of a table row and the sense of a bin byte, put together. -/
def binOf (n : Nat) (mps : Bool) : Byte := BitVec.ofNat 8 (n + if mps then 128 else 0)

theorem or_ofNat_index {n : Nat} (h : n < 128) (mps : Bool) : (if mps then 0x80 else 0) ||| BitVec.ofNat 8 n = binOf n mps := by
  revert n
  cases mps <;> decide

theorem and_sense (sv : Byte) : sv &&& 0x80 = if sv.getLsbD 7 then 0x80 else 0 := by
  revert sv
  decide

theorem sense_xor (mps switch : Bool) :
    (if mps then 0x80 else 0 : Byte) ^^^ (if switch then 0x80 else 0) = if mps != switch then 0x80 else 0 := by
  cases mps <;> cases switch <;> rfl

/-- What every row of QE_TABLE keeps to. -/
theorem qeTable_bounds : ∀ row ∈ qeTable, 1 ≤ row.qe ∧ row.qe < 0x8000 ∧ row.nmps ≤ 112 ∧ row.nlps ≤ 112 := by decide

theorem qeOf_index (sv : Byte) : (qeOf sv).qe < 0x8000 ∧ (qeOf sv).nmps < 128 ∧ (qeOf sv).nlps < 128 := by
  unfold qeOf lget
  cases h : qeTable[binIdx sv]? with
  | none => decide
  | some row =>
    obtain ⟨-, hqe, hmps, hlps⟩ := qeTable_bounds row (List.mem_of_getElem? h)
    exact ⟨hqe, Nat.lt_of_le_of_lt hmps (by decide), Nat.lt_of_le_of_lt hlps (by decide)⟩

/-- A valid bin has a row of the table, which leads to valid bins. -/
theorem qeOf_valid {sv : Byte} (h : binValid sv = true) : 1 ≤ (qeOf sv).qe ∧ (qeOf sv).nmps ≤ 112 ∧ (qeOf sv).nlps ≤ 112 := by
  have hidx : binIdx sv < qeTable.length := Nat.lt_succ_of_le (of_decide_eq_true h)
  have hrow : qeOf sv = qeTable[binIdx sv] := by rw [qeOf, lget, List.getElem?_eq_getElem hidx, Option.getD_some]
  obtain ⟨hqe, -, hmps, hlps⟩ := qeTable_bounds _ (List.getElem_mem hidx)
  rw [hrow]
  exact ⟨hqe, hmps, hlps⟩

theorem binValid_binOf {n : Nat} (h : n ≤ 112) (mps : Bool) : binValid (binOf n mps) = true := by
  have hidx : binIdx (binOf n mps) = n := by
    rw [binIdx, binOf, BitVec.toNat_ofNat]
    split <;> omega
  rw [binValid, hidx]
  exact decide_eq_true h

/-- The decision by its sub-interval and its exchange, the bin's byte by the row it moves to. -/
theorem decision_eq (sv : Byte) (a c ct : Nat) : decision sv a c ct =
    let q := qeOf sv
    let mps := binMps sv
    let a' := a - q.qe
    let t := a' * 2 ^ ct
    if t ≤ c then
      if a' < q.qe then (mps, q.qe, c - t, binOf q.nmps mps) else (!mps, q.qe, c - t, binOf q.nlps (mps != q.switch))
    else if a' < 0x8000 then
      if a' < q.qe then (!mps, a', c, binOf q.nlps (mps != q.switch)) else (mps, a', c, binOf q.nmps mps)
    else (mps, a', c, sv) := by
  obtain ⟨-, hmps, hlps⟩ := qeOf_index sv
  simp only [decision, and_sense, sense_xor, or_ofNat_index hmps, or_ofNat_index hlps]
  rfl

/-- The sub-interval chosen is not empty and holds C; the bin moves to a valid row. -/
theorem decision_bounds {sv : Byte} {a c ct : Nat} (hsv : binValid sv = true) (ha : 0x8000 ≤ a) (hc : c < a * 2 ^ ct) :
    let d := decision sv a c ct
    1 ≤ d.2.1 ∧ d.2.1 ≤ a ∧ d.2.2.1 < d.2.1 * 2 ^ ct ∧ binValid d.2.2.2 = true := by
  obtain ⟨hqe, hmps, hlps⟩ := qeOf_valid hsv
  obtain ⟨hlt, -⟩ := qeOf_index sv
  have hle : (qeOf sv).qe ≤ a := by omega
  have hpos : 1 ≤ a - (qeOf sv).qe := by omega
  have hsplit : (a - (qeOf sv).qe) * 2 ^ ct + (qeOf sv).qe * 2 ^ ct = a * 2 ^ ct := by rw [← Nat.add_mul, Nat.sub_add_cancel hle]
  rw [decision_eq]
  dsimp only
  split
  · have hupper : c - (a - (qeOf sv).qe) * 2 ^ ct < (qeOf sv).qe * 2 ^ ct := by omega
    split
    · exact ⟨hqe, hle, hupper, binValid_binOf hmps _⟩
    · exact ⟨hqe, hle, hupper, binValid_binOf hlps _⟩
  · have hlower : c < (a - (qeOf sv).qe) * 2 ^ ct := Nat.not_le.1 ‹_›
    split
    · split
      · exact ⟨hpos, Nat.sub_le _ _, hlower, binValid_binOf hlps _⟩
      · exact ⟨hpos, Nat.sub_le _ _, hlower, binValid_binOf hmps _⟩
    · exact ⟨hpos, Nat.sub_le _ _, hlower, hsv⟩

/-- The state after a decision: A and C, and the bin's byte. -/
def State.decided (s : State) (bin : Bin) (a c : Nat) (new : Byte) : State :=
  { s with qm := { s.qm with a := BitVec.ofNat 17 a, c := BitVec.ofNat 32 c }, st := s.st.setBin bin new }

/-- ArithDecode is the renormalisation, then the decision. -/
theorem arithDecode_of_renorm {s t : State} (bin : Bin) (h : renorm renormBound s = .ok ((), t)) :
    arithDecode bin s =
      let d := decision (t.st.binByte bin) t.qm.a.toNat t.qm.c.toNat t.qm.ct.toNat
      .ok (d.1, t.decided bin d.2.1 d.2.2.1 d.2.2.2) := by
  rw [arithDecode, act_bind, h]
  rfl

/-- A renormalised A is decided on as it stands. -/
theorem arithDecode_of_decision {s : State} {bin : Bin} {bit : Bool} {a c : Nat} {new : Byte} (ha : 0x8000 ≤ s.qm.a.toNat)
    (h : decision (s.st.binByte bin) s.qm.a.toNat s.qm.c.toNat s.qm.ct.toNat = (bit, a, c, new)) :
    arithDecode bin s = .ok (bit, s.decided bin a c new) := by
  rw [arithDecode_of_renorm bin (renorm_done ha 23), h]

theorem arithDecode_congr {s t : State} (bin : Bin) (h : renorm renormBound s = renorm renormBound t) :
    arithDecode bin s = arithDecode bin t := by
  rw [arithDecode, act_bind, act_bind, h]

/-- From the registers of an interval's start, or within their bounds, renormalisation ends within the bounds. -/
theorem renorm_ok {s : State} (hq : s.qm.ok) (hin : s.rd.segEnd ≤ s.inLen) :
    ∃ t, renorm renormBound s = .ok ((), t) ∧ t.qm.Running ∧ 0x8000 ≤ t.qm.a.toNat := by
  rcases hq with ⟨ha, hc, hct⟩ | hq
  · obtain ⟨b, u, hb⟩ := byteIn_ok hin
    obtain ⟨b', v, hb'⟩ := byteIn_ok (((renormed_byteIn s).1 _ _ hb).inside hin)
    have h : (0x10000 : BitVec 17).toNat = 0x10000 := rfl
    refine ⟨_, (renorm_start (BitVec.eq_of_toNat_eq ha) (BitVec.eq_of_toNat_eq hc) hct hb hb' 22).trans (renorm_done (by simp) 21),
      ?_, by simp⟩
    simp only [Coder.Running, State.withCoder_a, State.withCoder_c, State.withCoder_ct, BitVec.toNat_ofNat, Int.toNat_zero, pow_zero, h]
    omega
  · have ha := hq.1
    exact renorm_running hq hin (by omega)

/-- A decision from within the bounds of R346 keeps to them. -/
theorem decided_running {t : State} {bin : Bin} (hq : t.qm.Running) (ha : 0x8000 ≤ t.qm.a.toNat)
    (hbin : binValid (t.st.binByte bin) = true) :
    let d := decision (t.st.binByte bin) t.qm.a.toNat t.qm.c.toNat t.qm.ct.toNat
    (t.decided bin d.2.1 d.2.2.1 d.2.2.2).qm.Running ∧ binValid d.2.2.2 = true := by
  obtain ⟨-, hmax, h0, h7, hc⟩ := hq
  obtain ⟨hpos, hle, hlt, hnew⟩ := decision_bounds hbin ha hc
  intro d
  have hpow : 2 ^ t.qm.ct.toNat ≤ 2 ^ 7 := Nat.pow_le_pow_right (by decide) (by omega)
  have hfit : d.2.1 * 2 ^ t.qm.ct.toNat ≤ 0x10000 * 2 ^ 7 := Nat.mul_le_mul (hle.trans hmax) hpow
  have hd : (BitVec.ofNat 17 d.2.1).toNat = d.2.1 := by
    rw [BitVec.toNat_ofNat, Nat.mod_eq_of_lt (Nat.lt_of_le_of_lt (hle.trans hmax) (by decide))]
  have hdc : (BitVec.ofNat 32 d.2.2.1).toNat = d.2.2.1 := by
    rw [BitVec.toNat_ofNat, Nat.mod_eq_of_lt (hlt.trans_le (hfit.trans (by decide)))]
  refine ⟨⟨?_, ?_, h0, h7, ?_⟩, hnew⟩
  · exact hd.symm ▸ hpos
  · exact hd.symm ▸ hle.trans hmax
  · exact (hd.symm ▸ hdc.symm ▸ hlt :)

/-- ArithDecode never fails, and keeps the bounds of the coder and of the bins. -/
theorem arithDecode_ok {s : State} {bin : Bin} (hq : s.qm.ok) (hbin : binValid (s.st.binByte bin) = true)
    (hin : s.rd.segEnd ≤ s.inLen) :
    ∃ b t new, arithDecode bin s = .ok (b, t) ∧ t.qm.Running ∧ t.st = s.st.setBin bin new ∧ binValid new = true ∧
      t.rd.segEnd = s.rd.segEnd ∧ t.inLen = s.inLen := by
  obtain ⟨t, ht, hrun, ha⟩ := renorm_ok hq hin
  have hkept : Renormed s t := (renormed_renorm _ s).1 _ _ ht
  have hstt : t.st = s.st := by rw [hkept]
  rw [← hstt] at hbin
  obtain ⟨hrun', hnew⟩ := decided_running hrun ha hbin
  refine ⟨_, _, _, arithDecode_of_renorm bin ht, hrun', congrArg (Stats.setBin · bin _) hstt, hnew, ?_, ?_⟩
  · exact (congrArg (fun u : State => u.rd.segEnd) hkept :)
  · exact (congrArg State.inLen hkept :)

/-- A decision from a state whose A is not renormalised is the decision after one round. -/
theorem arithDecode_round {s t : State} (bin : Bin) (hq : s.qm.Running) (ha : s.qm.a.toNat < 0x8000) (h : renormRound s = .ok ((), t)) :
    arithDecode bin s = arithDecode bin t := by
  obtain ⟨hqt, -⟩ := renormRound_running hq ha h
  have hpos := hqt.1
  exact arithDecode_congr bin ((renorm_round_ok ha h 23).trans (renorm_succ (n := 22) hqt (by omega)).symm)

/-- Settles O44: the renormalisation round by round, the decision by its sub-interval, the bins by what a set bin reads back. -/
theorem arithDecodeKeepsItsBounds : Obligations.ArithDecodeKeepsItsBounds := by
  have hrunning {s : State} (hq : s.qm.ok) (hne : s.qm.a ≠ 0) : s.qm.Running :=
    hq.resolve_left fun h => hne (BitVec.eq_of_toNat_eq h.1)
  refine ⟨fun s bin hq hst hbin hin => ?_, fun s bin ha => ?_, fun s bin hq ha => ⟨fun hzero b b' u v hb hb' => ?_, fun hne hct =>
    arithDecode_round bin (hrunning hq hne) ha (renormRound_shift hct), fun hne hct b u hb =>
    arithDecode_round bin (hrunning hq hne) ha (renormRound_byte hct hb)⟩, fun st t i v ht hst => ?_, rfl⟩
  · obtain ⟨b, t, new, hdec, hrun, hstt, hnew, hseg, hlen⟩ := arithDecode_ok hq hbin hin
    refine ⟨b, t, hdec, .inr hrun, hstt ▸ setBin_ok hst bin new, hrun.1, ?_, hseg, hlen, fun bin' hne => ?_, fun hfixed => ?_⟩
    · rw [hstt, binByte_setBin hst]
      split
      · exact hnew
      · exact hbin
    · rw [hstt, binByte_setBin hst, if_neg fun h => hne h.1.symm]
    · rw [hstt, hfixed]
      rfl
  · have hd := decision_eq (s.st.binByte bin) s.qm.a.toNat s.qm.c.toNat s.qm.ct.toNat
    refine ⟨fun hc hq => ?_, fun hc hq => ?_, fun hc hlow hq => ?_, fun hc hlow hq => ?_, fun hc hlow => ?_⟩ <;>
      refine arithDecode_of_decision ha (hd.trans ?_)
    · exact (if_pos hc).trans (if_pos hq)
    · exact (if_pos hc).trans (if_neg (Nat.not_lt.2 hq))
    · exact (if_neg (Nat.not_le.2 hc)).trans ((if_pos hlow).trans (if_pos hq))
    · exact (if_neg (Nat.not_le.2 hc)).trans ((if_pos hlow).trans (if_neg (Nat.not_lt.2 hq)))
    · exact (if_neg (Nat.not_le.2 hc)).trans (if_neg (Nat.not_lt.2 hlow))
  · obtain ⟨-, hc, hct⟩ : s.qm.a.toNat = 0 ∧ s.qm.c.toNat = 0 ∧ s.qm.ct = -16 :=
      hq.resolve_right fun h => by simp [hzero] at h
    refine arithDecode_congr bin ((renorm_start hzero (BitVec.eq_of_toNat_eq hc) hct hb hb' 22).trans ?_)
    exact (renorm_done (by simp) 21).trans (renorm_done (by simp) 23).symm
  · have hset (bin : Bin) (h : bin.inTable = true) : (st.setBin bin v).binByte bin = v := by
      rw [binByte_setBin hst, if_pos ⟨rfl, h⟩]
    exact ⟨fun hi => hset (.dc t i) (decide_eq_true ⟨ht, hi⟩), fun hi => hset (.ac t i) (decide_eq_true ⟨ht, hi⟩),
      hset (.ll t i) (decide_eq_true ht), rfl, rfl⟩

end Sys2Proof.Machine

namespace Sys2Proof.Machine

/-! ### Lists of decisions (R344) -/

theorem ones_succ (bin : Nat → Bin) (x n : Nat) : Rule.ones bin x (n + 1) = (bin x, true) :: Rule.ones bin (x + 1) n := by
  simp only [Rule.ones, List.range_succ_eq_map, List.map_cons, List.map_map, Function.comp_def, Nat.succ_eq_add_one,
    Nat.add_zero, Nat.add_right_comm x 1, Nat.add_assoc]

theorem unary_succ (bin : Nat → Bin) (x n : Nat) : Rule.unary bin x (n + 1) = (bin x, true) :: Rule.unary bin (x + 1) n := by
  rw [Rule.unary, ones_succ, Rule.unary, Nat.add_right_comm]
  rfl

/-- A decision of 1 below the largest category. -/
theorem magnitude_next {bin : Nat → Bin} {e i : Nat} {s t : State} (h : arithDecode (bin i) s = .ok (true, t)) (he : e < 14)
    (fuel : Nat) : magnitude bin (fuel + 1) i (2 ^ e) s = magnitude bin fuel (i + 1) (2 ^ (e + 1)) t := by
  have hne : ¬ 2 ^ (e + 1) = 0x8000 := (Nat.pow_lt_pow_right (by decide : 1 < 2) (Nat.succ_lt_succ he)).ne
  simp only [magnitude, act_bind, h, if_true, ← pow_succ', if_neg hne]

/-- The category loop on `n` decisions of 1 and one of 0 (R352, R354). -/
theorem magnitude_unary {bin : Nat → Bin} : ∀ {n e fuel i : Nat} {s u : State}, e + n ≤ 14 → n < fuel →
    Rule.decides (Rule.unary bin i n) s u → magnitude bin fuel i (2 ^ e) s = .ok ((i + n, 2 ^ (e + n)), u)
  | _, _, 0, _, _, _, _, hfuel, _ => absurd hfuel (Nat.not_lt_zero _)
  | 0, _, fuel + 1, _, _, _, _, _, h => by
    obtain ⟨t, ht, rfl⟩ := h
    simp only [Nat.add_zero] at ht ⊢
    simp only [magnitude, act_bind, ht]
    rfl
  | n + 1, e, fuel + 1, i, _, _, he, hfuel, h => by
    rw [unary_succ] at h
    obtain ⟨t, ht, h⟩ := h
    rw [magnitude_next ht (by omega), magnitude_unary (e := e + 1) (by omega) (Nat.lt_of_succ_lt_succ hfuel) h,
      Nat.add_right_comm i, Nat.add_right_comm e]
    rfl

/-- The category loop on decisions of 1 past the largest category. -/
theorem magnitude_ones {bin : Nat → Bin} : ∀ {n e fuel i : Nat} {s u : State}, e + n = 14 → n < fuel →
    Rule.decides (Rule.ones bin i (n + 1)) s u → magnitude bin fuel i (2 ^ e) s = .error (.raise .formatError u)
  | _, _, 0, _, _, _, _, hfuel, _ => absurd hfuel (Nat.not_lt_zero _)
  | 0, _, fuel + 1, _, _, _, he, _, h => by
    obtain ⟨t, ht, rfl⟩ := h
    obtain rfl := he
    simp only [Nat.add_zero] at ht
    simp only [magnitude, act_bind, ht]
    rfl
  | n + 1, e, fuel + 1, i, _, _, he, hfuel, h => by
    rw [ones_succ] at h
    obtain ⟨t, ht, h⟩ := h
    rw [magnitude_next ht (by omega), magnitude_ones (e := e + 1) (by omega) (Nat.lt_of_succ_lt_succ hfuel) h]

/-! #### Magnitude bits (R352, R354) -/

theorem foldl_bits (bits : List Bool) (v : Nat) :
    bits.foldl (fun v b => 2 * v + bitVal b) v = 2 ^ bits.length * v + bitsValue bits := by
  induction bits generalizing v with
  | nil => simp [bitsValue]
  | cons d bits ih =>
    have h0 : bitsValue (d :: bits) = bits.foldl (fun v b => 2 * v + bitVal b) (2 * 0 + bitVal d) := rfl
    rw [List.foldl_cons, h0, ih, ih, List.length_cons, pow_succ]
    ring

theorem bitsValue_cons (d : Bool) (bits : List Bool) : bitsValue (d :: bits) = 2 ^ bits.length * bitVal d + bitsValue bits := by
  rw [← foldl_bits, bitsValue, List.foldl_cons, Nat.mul_zero, Nat.zero_add]

/-- A bit below a multiple of the next power of 2. -/
theorem set_bit (q n : Nat) (d : Bool) : (if d then 2 ^ (n + 1) * q ||| 2 ^ n else 2 ^ (n + 1) * q) = 2 ^ n * (2 * q + bitVal d) := by
  cases d
  · simp only [bitVal, pow_succ, Bool.false_eq_true, if_false]
    ring
  · rw [if_pos rfl, ← Nat.two_pow_add_eq_or_of_lt (Nat.pow_lt_pow_right (by decide) (Nat.lt_succ_self n)), bitVal, if_pos rfl, pow_succ]
    ring

/-- The magnitude bits are put below the leading part. -/
theorem magnitudeBits_ok {bin : Bin} : ∀ {bits : List Bool} {fuel q : Nat} {s t : State}, bits.length < fuel →
    Rule.decides (Rule.bitsIn bin bits) s t →
    magnitudeBits bin fuel (2 ^ bits.length / 2) (2 ^ bits.length * q) s = .ok (2 ^ bits.length * q + bitsValue bits, t)
  | _, 0, _, _, _, hfuel, _ => absurd hfuel (Nat.not_lt_zero _)
  | [], fuel + 1, q, s, t, _, h => by
    obtain rfl : t = s := h
    rfl
  | d :: bits, fuel + 1, q, s, t, hfuel, h => by
    obtain ⟨u, hu, h⟩ := h
    have hhalf : 2 ^ (bits.length + 1) / 2 = 2 ^ bits.length := by rw [pow_succ, Nat.mul_div_cancel _ (by decide)]
    have ih := magnitudeBits_ok (q := 2 * q + bitVal d) (Nat.lt_of_succ_lt_succ hfuel) h
    simp only [magnitudeBits, List.length_cons, hhalf, if_neg (pow_ne_zero bits.length (by decide : (2 : Nat) ≠ 0)), act_bind, hu]
    rw [set_bit, ih, bitsValue_cons, pow_succ]
    congr 2
    ring

/-! #### The tree of a difference (R352, R421) -/

section
variable {bin : Nat → Bin} {s0 x : Nat} {sign : Bool} {s u : State}

theorem diffCategory_small (h : Rule.decides [(bin (s0 + 1), sign), (bin (s0 + 2 + if sign then 1 else 0), false)] s u) :
    diffCategory bin s0 x s = .ok ((sign, 0, s0 + 2 + if sign then 1 else 0), u) := by
  obtain ⟨a, ha, b, hb, rfl⟩ := h
  simp only [diffCategory, act_bind, ha, hb]
  rfl

/-- The sign and the first category decision lead to the category loop. -/
theorem diffCategory_large {l : List (Bin × Bool)}
    (h : Rule.decides ([(bin (s0 + 1), sign), (bin (s0 + 2 + if sign then 1 else 0), true)] ++ l) s u) :
    ∃ t, Rule.decides l t u ∧ diffCategory bin s0 x s = (magnitude bin magnitudeBound x 1 >>= fun p => pure (sign, p.2, p.1)) t := by
  obtain ⟨a, ha, t, ht, h⟩ := h
  refine ⟨t, h, ?_⟩
  simp only [diffCategory, act_bind, ha, ht, if_true]

theorem diffCategory_unary {n : Nat} (hn : n ≤ 14)
    (h : Rule.decides ([(bin (s0 + 1), sign), (bin (s0 + 2 + if sign then 1 else 0), true)] ++ Rule.unary bin x n) s u) :
    diffCategory bin s0 x s = .ok ((sign, 2 ^ n, x + n), u) := by
  obtain ⟨t, ht, heq⟩ := diffCategory_large (x := x) h
  have hm := magnitude_unary (e := 0) (fuel := magnitudeBound) (by omega) (Nat.lt_of_le_of_lt hn (by decide)) ht
  rw [pow_zero, Nat.zero_add] at hm
  rw [heq, act_bind, hm]
  rfl

theorem diffCategory_ones
    (h : Rule.decides ([(bin (s0 + 1), sign), (bin (s0 + 2 + if sign then 1 else 0), true)] ++ Rule.ones bin x 15) s u) :
    diffCategory bin s0 x s = .error (.raise .formatError u) := by
  obtain ⟨t, ht, heq⟩ := diffCategory_large (x := x) h
  have hm : magnitude bin magnitudeBound x 1 t = _ := magnitude_ones (n := 14) (e := 0) rfl (by decide) ht
  rw [heq, act_bind, hm]

theorem diffValue_small (i : Nat) : diffValue bin sign 0 i s = .ok (signed sign 1, s) := rfl

theorem diffValue_bits {i : Nat} {bits : List Bool} (hlen : bits.length ≤ 14) (h : Rule.decides (Rule.bitsIn (bin (i + 14)) bits) s u) :
    diffValue bin sign (2 ^ bits.length) i s = .ok (signed sign (2 ^ bits.length + bitsValue bits + 1), u) := by
  have hv := magnitudeBits_ok (fuel := magnitudeBound) (q := 1) (Nat.lt_of_le_of_lt hlen (by decide)) h
  rw [Nat.mul_one] at hv
  simp only [diffValue, act_bind, hv, act_pure]

end

/-! #### The three trees (R352, R354, R421) -/

/-- DC_CTX of a component replaced. -/
def State.withDcCtx (s : State) (c x : Nat) : State := { s with pr := { s.pr with dcCtx := vset s.pr.dcCtx c x } }

/-- A DC difference that is not zero. -/
theorem decodeDcDiff_nonzero {s a : State} {c : Nat} (h : arithDecode (s.dcs c (vget s.pr.dcCtx c 0)) s = .ok (true, a)) :
    decodeDcDiff c s = (diffCategory (s.dcs c) (vget s.pr.dcCtx c 0) 20 >>= fun p =>
      setDcCtx c (dcContext (s.condL c) (s.condU c) p.2.1 p.1) >>= fun _ => diffValue (s.dcs c) p.1 p.2.1 p.2.2) a := by
  simp only [decodeDcDiff, act_bind, act_get, h, if_true]

theorem decodeDcDiff_category {s a u : State} {c m i : Nat} {sign : Bool}
    (h : arithDecode (s.dcs c (vget s.pr.dcCtx c 0)) s = .ok (true, a))
    (hcat : diffCategory (s.dcs c) (vget s.pr.dcCtx c 0) 20 a = .ok ((sign, m, i), u)) :
    decodeDcDiff c s = diffValue (s.dcs c) sign m i (u.withDcCtx c (dcContext (s.condL c) (s.condU c) m sign)) := by
  rw [decodeDcDiff_nonzero h, act_bind, hcat]
  rfl

theorem dcContext_eq (l u m : Nat) (sign : Bool) : dcContext l u m sign = if m < 2 ^ l / 2 then 0
    else if 2 ^ u / 2 < m then 12 + 4 * (if sign then 1 else 0) else 4 + 4 * (if sign then 1 else 0) := by
  cases sign <;> rfl

theorem decodeDiffLl_nonzero {s a : State} {t s0 x : Nat} (h : arithDecode (.ll t s0) s = .ok (true, a)) :
    decodeDiffLl t s0 x s = (diffCategory (.ll t) s0 x >>= fun p => diffValue (.ll t) p.1 p.2.1 p.2.2) a := by
  simp only [decodeDiffLl, act_bind, h, if_true]

/-- The first bin of an AC value's category (R354). -/
def State.acBase (s : State) (c k : Nat) : Nat := if k ≤ s.condKx c then 189 else 217

section
variable {s u : State} {c k : Nat} {sign : Bool}

theorem decodeAcValue_one (h : Rule.decides [(.fixed, sign), (s.acs c (3 * (k - 1) + 2), false)] s u) :
    decodeAcValue c k s = .ok (signed sign 1, u) := by
  obtain ⟨a, ha, b, hb, rfl⟩ := h
  simp only [decodeAcValue, act_bind, act_get, ha, hb, Bool.false_eq_true, if_false, act_pure]
  rfl

theorem decodeAcValue_two
    (h : Rule.decides [(.fixed, sign), (s.acs c (3 * (k - 1) + 2), true), (s.acs c (3 * (k - 1) + 2), false)] s u) :
    decodeAcValue c k s = .ok (signed sign 2, u) := by
  obtain ⟨a, ha, b, hb, d, hd, rfl⟩ := h
  simp only [decodeAcValue, act_bind, act_get, ha, hb, hd, if_true, Bool.false_eq_true, if_false, act_pure]
  rfl

/-- Two decisions of 1 lead to the category loop. -/
theorem decodeAcValue_large {l : List (Bin × Bool)} (h : Rule.decides
    ([(.fixed, sign), (s.acs c (3 * (k - 1) + 2), true), (s.acs c (3 * (k - 1) + 2), true)] ++ l) s u) :
    ∃ t, Rule.decides l t u ∧ decodeAcValue c k s =
      (magnitude (s.acs c) magnitudeBound (s.acBase c k) 2 >>= fun p => diffValue (s.acs c) sign p.2 p.1) t := by
  obtain ⟨a, ha, b, hb, t, ht, h⟩ := h
  refine ⟨t, h, ?_⟩
  simp only [decodeAcValue, act_bind, act_get, ha, hb, ht, if_true, diffValue, State.acBase]

theorem decodeAcValue_bits {t : State} {d : Bool} {bits : List Bool} (hlen : bits.length ≤ 13)
    (h : Rule.decides ([(.fixed, sign), (s.acs c (3 * (k - 1) + 2), true), (s.acs c (3 * (k - 1) + 2), true)] ++
      Rule.unary (s.acs c) (s.acBase c k) bits.length) s u)
    (hbits : Rule.decides (Rule.bitsIn (s.acs c (s.acBase c k + bits.length + 14)) (d :: bits)) u t) :
    decodeAcValue c k s = .ok (signed sign (2 ^ (bits.length + 1) + bitsValue (d :: bits) + 1), t) := by
  obtain ⟨t', ht, heq⟩ := decodeAcValue_large h
  have hm := magnitude_unary (e := 1) (by omega) (Nat.lt_of_le_of_lt hlen (by decide : 13 < magnitudeBound)) ht
  rw [Nat.add_comm 1, pow_one] at hm
  rw [heq, act_bind, hm]
  exact diffValue_bits (bits := d :: bits) (Nat.succ_le_succ hlen) hbits

theorem decodeAcValue_ones
    (h : Rule.decides ([(.fixed, sign), (s.acs c (3 * (k - 1) + 2), true), (s.acs c (3 * (k - 1) + 2), true)] ++
      Rule.ones (s.acs c) (s.acBase c k) 14) s u) :
    decodeAcValue c k s = .error (.raise .formatError u) := by
  obtain ⟨t, ht, heq⟩ := decodeAcValue_large h
  have hm : magnitude (s.acs c) magnitudeBound (s.acBase c k) 2 t = _ := magnitude_ones (n := 13) (e := 1) rfl (by decide) ht
  rw [heq, act_bind, hm]

end

/-- Settles O45: each tree by the decision it starts with, its category loop and its magnitude bits. -/
theorem decisionTrees : Obligations.DecisionTrees := by
  refine ⟨fun s u c => ⟨?_, fun sign => ⟨?_, ?_, ?_⟩⟩, fun s u c k sign => ?_, fun s u t s0 x => ⟨?_, fun sign => ⟨?_, ?_, ?_⟩⟩⟩
  · rintro ⟨a, ha, rfl⟩
    simp only [decodeDcDiff, act_bind, act_get, State.dcs, ha]
    rfl
  · rintro ⟨a, ha, h⟩
    rw [decodeDcDiff_category ha (diffCategory_small h), dcContext_eq]
    rfl
  · rintro bits t hlen ⟨a, ha, h⟩ hbits
    rw [show 34 + bits.length = 20 + bits.length + 14 by omega] at hbits
    rw [decodeDcDiff_category ha (diffCategory_unary hlen h), dcContext_eq]
    exact diffValue_bits hlen hbits
  · rintro ⟨a, ha, h⟩
    rw [decodeDcDiff_nonzero ha, act_bind, diffCategory_ones (bin := s.dcs c) h]
  · exact ⟨decodeAcValue_one, decodeAcValue_two, fun d bits t => decodeAcValue_bits, decodeAcValue_ones⟩
  · rintro ⟨a, ha, rfl⟩
    simp only [decodeDiffLl, act_bind, ha]
    rfl
  · rintro ⟨a, ha, h⟩
    rw [decodeDiffLl_nonzero ha, act_bind, diffCategory_small h]
    exact diffValue_small _
  · rintro bits v hlen ⟨a, ha, h⟩ hbits
    rw [decodeDiffLl_nonzero ha, act_bind, diffCategory_unary hlen h]
    exact diffValue_bits hlen hbits
  · rintro ⟨a, ha, h⟩
    rw [decodeDiffLl_nonzero ha, act_bind, diffCategory_ones h]

end Sys2Proof.Machine

namespace Sys2Proof.Machine

/-! ### What arithmetic decoding does not look at (R344-R354) -/

section
variable {q : Seq → Seq} {pl : Vector (Option Plane) 4 → Vector (Option Plane) 4} {p : Pred → Pred}

theorem oblivious_byteIn : Oblivious (·.touched q pl p) byteIn := by
  refine oblivious_read (fun _ => rfl) fun _ => oblivious_ite ?_ ?_
  · exact oblivious_bind (oblivious_update fun _ => rfl) fun _ => oblivious_pure _
  · exact oblivious_bind (oblivious_memRead1 _) fun _ => oblivious_bind (oblivious_update fun _ => rfl) fun _ => oblivious_pure _

theorem oblivious_renormRound : Oblivious (·.touched q pl p) renormRound :=
  oblivious_read (fun _ => rfl) fun _ => oblivious_ite
    (oblivious_bind oblivious_byteIn fun _ => oblivious_update fun _ => rfl) (oblivious_update fun _ => rfl)

theorem oblivious_renorm : ∀ fuel, Oblivious (·.touched q pl p) (renorm fuel)
  | 0 => oblivious_stop _
  | fuel + 1 => oblivious_read (fun _ => rfl) fun _ => oblivious_ite
      (oblivious_bind oblivious_renormRound fun _ => oblivious_renorm fuel) (oblivious_pure _)

theorem oblivious_arithDecode (bin : Bin) : Oblivious (·.touched q pl p) (arithDecode bin) :=
  oblivious_bind (oblivious_renorm _) fun _ => oblivious_read (fun _ => rfl) fun _ =>
    oblivious_bind (oblivious_update fun _ => rfl) fun _ => oblivious_pure _

theorem oblivious_magnitude (bin : Nat → Bin) : ∀ fuel i m, Oblivious (·.touched q pl p) (magnitude bin fuel i m)
  | 0, _, _ => oblivious_stop _
  | fuel + 1, _, _ => oblivious_bind (oblivious_arithDecode _) fun _ => oblivious_ite
      (oblivious_ite (oblivious_raise _) (oblivious_magnitude bin fuel _ _)) (oblivious_pure _)

theorem oblivious_magnitudeBits (bin : Bin) : ∀ fuel b v, Oblivious (·.touched q pl p) (magnitudeBits bin fuel b v)
  | 0, _, _ => oblivious_pure _
  | fuel + 1, _, _ => oblivious_ite (oblivious_pure _)
      (oblivious_bind (oblivious_arithDecode _) fun _ => oblivious_magnitudeBits bin fuel _ _)

theorem oblivious_diffCategory (bin : Nat → Bin) (s0 x1 : Nat) : Oblivious (·.touched q pl p) (diffCategory bin s0 x1) :=
  oblivious_bind (oblivious_arithDecode _) fun _ => oblivious_bind (oblivious_arithDecode _) fun _ => oblivious_ite
    (oblivious_bind (oblivious_magnitude _ _ _ _) fun _ => oblivious_pure _) (oblivious_pure _)

theorem oblivious_diffValue (bin : Nat → Bin) (sign : Bool) (m i : Nat) : Oblivious (·.touched q pl p) (diffValue bin sign m i) :=
  oblivious_bind (oblivious_magnitudeBits _ _ _ _) fun _ => oblivious_pure _

/-- PRED may change under a DC difference: the tree reads and writes DC_CTX only. -/
theorem oblivious_decodeDcDiff (f : Vector Int 4 → Vector Int 4) (c : Nat) :
    Oblivious (·.touched q pl fun p => { p with pred := f p.pred }) (decodeDcDiff c) := by
  refine oblivious_read (fun _ => rfl) fun _ => oblivious_bind (oblivious_arithDecode _) fun _ => oblivious_ite ?_
    (oblivious_bind (oblivious_update fun _ => rfl) fun _ => oblivious_pure _)
  exact oblivious_bind (oblivious_diffCategory _ _ _) fun _ => oblivious_bind (oblivious_update fun _ => rfl) fun _ =>
    oblivious_diffValue _ _ _ _

theorem oblivious_decodeAcValue (c k : Nat) : Oblivious (·.touched q pl p) (decodeAcValue c k) := by
  refine oblivious_read (fun _ => rfl) fun _ => oblivious_bind (oblivious_arithDecode _) fun sign =>
    oblivious_bind (oblivious_arithDecode _) fun _ => oblivious_ite ?_
      (oblivious_bind (oblivious_pure _) fun _ => oblivious_diffValue _ sign _ _)
  refine oblivious_bind (oblivious_arithDecode _) fun _ => oblivious_ite ?_ ?_
  · exact oblivious_bind (oblivious_magnitude _ _ _ _) fun _ => oblivious_diffValue _ sign _ _
  · exact oblivious_bind (oblivious_pure _) fun _ => oblivious_diffValue _ sign _ _

theorem oblivious_zeroRun (bin : Nat → Bin) (last : Nat) : ∀ fuel k, Oblivious (·.touched q pl p) (zeroRun bin last fuel k)
  | 0, _ => oblivious_stop _
  | fuel + 1, _ => oblivious_bind (oblivious_arithDecode _) fun _ => oblivious_ite (oblivious_pure _)
      (oblivious_ite (oblivious_raise _) (oblivious_zeroRun bin last fuel _))

end

/-- What an action does not look at, it leaves as it was. -/
theorem Oblivious.fixed {α : Type} {f : State → State} {m : Act α} (h : Oblivious f m) {s : State} (hs : f s = s) :
    StaysAt (fun _ t => f t = t) m s := by
  have hm := h s
  rw [hs] at hm
  refine ⟨fun a t ht => ?_, fun e t ht => ?_⟩ <;> rw [ht] at hm
  · exact (Prod.mk.inj (Except.ok.inj hm)).2.symm
  · exact (Stop.raise.inj (Except.error.inj hm)).2.symm

/-- An action of the decoders that does not look at the planes and the sequencing leaves them, and the scan and frame, alone. -/
theorem aside_of_oblivious {α : Type} {m : Act α} (hcalm : Stays Calm m) (h : ∀ {q pl}, Oblivious (·.touched q pl id) m) :
    Stays Aside m := by
  intro s
  have hfixed := Oblivious.fixed (s := s) (h (q := fun _ => s.sq) (pl := fun _ => s.arena.planes)) rfl
  have haside {t : State} (hc : Calm s t) (hf : t.touched (fun _ => s.sq) (fun _ => s.arena.planes) id = t) : Aside s t := by
    have harena := hc.arena
    obtain ⟨⟨-, -, -, -, -, -, -, hfr, hsc, -⟩, -⟩ := hc
    have hplanes : t.arena.planes = s.arena.planes := (congrArg (·.arena.planes) hf).symm
    rw [hplanes] at harena
    exact ⟨hsc, hfr, harena, (congrArg (·.sq) hf).symm⟩
  exact ⟨fun a t ht => haside ((hcalm s).1 a t ht) (hfixed.1 a t ht), fun e t ht => haside ((hcalm s).2 e t ht) (hfixed.2 e t ht)⟩

theorem aside_arithDecode (bin : Bin) : Stays Aside (arithDecode bin) :=
  aside_of_oblivious (calm_arithDecode bin) (oblivious_arithDecode bin)

theorem aside_decodeDcDiff (c : Nat) : Stays Aside (decodeDcDiff c) :=
  aside_of_oblivious (calm_decodeDcDiff c) (oblivious_decodeDcDiff id c)

theorem aside_decodeAcValue (c k : Nat) : Stays Aside (decodeAcValue c k) :=
  aside_of_oblivious (calm_decodeAcValue c k) (oblivious_decodeAcValue c k)

theorem aside_zeroRun (bin : Nat → Bin) (last fuel k : Nat) : Stays Aside (zeroRun bin last fuel k) :=
  aside_of_oblivious (calm_zeroRun bin last fuel k) (oblivious_zeroRun bin last fuel k)

/-- A DC difference leaves PRED to the prediction. -/
theorem pred_decodeDcDiff {c : Nat} {s t : State} {diff : Int} (h : decodeDcDiff c s = .ok (diff, t)) : t.pr.pred = s.pr.pred :=
  (congrArg (·.pr.pred) ((oblivious_decodeDcDiff (q := id) (pl := id) (fun _ => s.pr.pred) c).fixed (s := s) rfl |>.1 _ _ h)).symm

end Sys2Proof.Machine

namespace Sys2Proof.Machine

/-! ### The bands of the arithmetic routines, in the plane and held aside (R350, R358, R360) -/

/-- Inside the band the zero run ends before its bound. -/
theorem ruleZeroRun_eq (bin : Nat → Bin) (last : Nat) : ∀ {fuel k : Nat}, k ≤ last → last < k + fuel →
    Rule.zeroRun bin last fuel k = zeroRun bin last fuel k
  | 0, k, hk, hfuel => absurd hk (Nat.not_le.2 hfuel)
  | fuel + 1, k, hk, hfuel => by
    rw [Rule.zeroRun, zeroRun]
    by_cases hend : k + 1 > last
    · simp only [if_pos hend]
    · simp only [if_neg hend, ruleZeroRun_eq bin last (Nat.not_lt.1 hend) (by omega : last < k + 1 + fuel)]

/-- A zero run goes forward. -/
theorem zeroRun_le {bin : Nat → Bin} {last : Nat} : ∀ {fuel k k' : Nat} {s t : State},
    zeroRun bin last fuel k s = .ok (k', t) → k ≤ k'
  | 0, _, _, _, _, h => by cases h
  | fuel + 1, k, k', s, t, h => by
    obtain ⟨nz, u, -, h⟩ := act_bind_ok h
    rw [act_ite, act_ite] at h
    split at h
    · cases h
      exact le_refl k
    · split at h
      · cases h
      · exact (Nat.le_succ k).trans (zeroRun_le h)

section
variable {a : Address} {old : Block} {o : Option OpenBlock} {bin : Nat → Bin} {last : Nat}

/-- The band of R350 and R358: where storing a value in the plane agrees with computing it, the two bands agree. -/
theorem ariBand_agrees {s0 : State} {store : Nat → Int → Act Unit} {value : Int → Act Int} (hvalue : ∀ v, Stays Aside (value v))
    (hstore : ∀ {t : State} (blk : Block) (k : Nat) (v : Int), Aside s0 t →
      Agrees (fun w t => ((), t.held a (vset blk k w) o)) (store k v (t.held a blk o)) (value v t)) :
    ∀ {n m k : Nat} {s : State} (blk : Block), Aside s0 s → last ≤ 63 → 0 < n → last + 1 < k + n → last < k + m →
      Agrees (fun blk' t => ((), t.held a blk' o)) (ariBand a bin last store n k (s.held a blk o))
        (Rule.ariBand a.c bin last value m k blk s)
  | 0, _, _, _, _, _, _, hn, _, _ => absurd hn (lt_irrefl 0)
  | n + 1, 0, k, s, blk, _, _, _, _, hm => by
    rw [ariBand, if_neg (show ¬ k ≤ last from Nat.not_le.2 hm)]
    exact .ok blk s
  | n + 1, m + 1, k, s, blk, hs, hlast, _, hn, hm => by
    rw [ariBand, Rule.ariBand]
    by_cases hk : k ≤ last
    · rw [if_pos hk, if_pos hk]
      refine agrees_bind (agrees_oblivious (oblivious_arithDecode _)) fun eob t ht => ?_
      have hst := aside_chain.trans hs ((aside_arithDecode _ s).1 _ _ ht)
      cases eob with
      | true => exact .ok blk t
      | false =>
        simp only [Bool.false_eq_true, if_false, ruleZeroRun_eq bin last hk (by omega : last < k + 64)]
        refine agrees_bind (agrees_oblivious (oblivious_zeroRun _ _ _ _)) fun k' u hu => ?_
        have hsu := aside_chain.trans hst ((aside_zeroRun _ _ _ _ t).1 _ _ hu)
        have hle := zeroRun_le hu
        refine agrees_bind (agrees_oblivious (oblivious_decodeAcValue _ _)) fun v w hw => ?_
        have hsw := aside_chain.trans hsu ((aside_decodeAcValue _ _ u).1 _ _ hw)
        refine agrees_bind (hstore blk k' v hsw) fun x y hy => ?_
        have hsy := aside_chain.trans hsw ((hvalue v w).1 _ _ hy)
        exact ariBand_agrees hvalue hstore (vset blk k' x) hsy hlast (by omega) (by omega) (by omega)
    · rw [if_neg hk, if_neg hk]
      exact .ok blk s

/-- The inner loop of a refinement (R360). -/
theorem refineRun_agrees {p1 : Int} : ∀ {fuel k : Nat} {s : State} (blk : Block), s.block? a = some old → k ≤ last →
    last < k + fuel →
    Agrees (fun p t => (p.1, t.held a p.2 o)) (refineRun a bin last p1 fuel k (s.held a blk o))
      (Rule.ariRefineRun bin last p1 fuel k blk s)
  | 0, _, _, _, _, hk, hfuel => absurd hk (Nat.not_le.2 hfuel)
  | fuel + 1, k, s, blk, hold, hk, hfuel => by
    have hset (t : State) (v : Int) (ht : t.block? a = some old) :
        setCoeff a k v (t.held a blk o) = .ok ((), t.held a (vset blk k v) o) := act_setCoeff_held ht blk o k v
    rw [refineRun, Rule.ariRefineRun, act_bind, act_getCoeff_held hold]
    dsimp only
    by_cases hv : vget blk k 0 ≠ 0
    · rw [if_pos hv, if_pos hv]
      refine agrees_bind (agrees_oblivious (oblivious_arithDecode _)) fun d t ht => ?_
      have hblk := (((aside_arithDecode _ s).1 _ _ ht).block? a).trans hold
      have hmove : (if vget blk k 0 < 0 then vget blk k 0 - p1 else vget blk k 0 + p1) =
          vget blk k 0 + if vget blk k 0 < 0 then -p1 else p1 := by split <;> rfl
      cases d with
      | true =>
        simp only [if_true, act_bind, hset t _ hblk, hmove]
        exact .ok (k, vset blk k _) t
      | false => exact .ok (k, blk) t
    · rw [if_neg hv, if_neg hv]
      refine agrees_bind (agrees_oblivious (oblivious_arithDecode _)) fun nz t ht => ?_
      have hblk := (((aside_arithDecode _ s).1 _ _ ht).block? a).trans hold
      cases nz with
      | true =>
        refine agrees_bind (agrees_oblivious (oblivious_arithDecode _)) fun neg u hu => ?_
        have hblk' := (((aside_arithDecode _ t).1 _ _ hu).block? a).trans hblk
        simp only [act_bind, hset u _ hblk']
        exact .ok (k, vset blk k _) u
      | false =>
        simp only [Bool.false_eq_true, if_false]
        by_cases hend : k + 1 > last
        · rw [if_pos hend, if_pos hend]
          exact .raise (failEntry_held _ t a blk o)
        · rw [if_neg hend, if_neg hend]
          exact refineRun_agrees blk hblk (Nat.not_lt.1 hend) (by omega)

theorem aside_ruleRefineRun (p1 : Int) : ∀ fuel k blk, Stays Aside (Rule.ariRefineRun bin last p1 fuel k blk)
  | 0, _, _ => stays_pure aside_chain _
  | fuel + 1, k, blk => by
    refine stays_ite (stays_bind aside_chain (aside_arithDecode _) fun _ => stays_pure aside_chain _) ?_
    refine stays_bind aside_chain (aside_arithDecode _) fun _ => stays_ite ?_
      (stays_ite (stays_raise aside_chain _) (aside_ruleRefineRun p1 fuel _ _))
    exact stays_bind aside_chain (aside_arithDecode _) fun _ => stays_pure aside_chain _

/-- The inner loop goes forward. -/
theorem ruleRefineRun_le {p1 : Int} : ∀ {fuel k : Nat} {blk : Block} {p : Nat × Block} {s t : State},
    Rule.ariRefineRun bin last p1 fuel k blk s = .ok (p, t) → k ≤ p.1
  | 0, k, _, _, _, _, h => by
    cases h
    exact le_refl k
  | fuel + 1, k, blk, p, s, t, h => by
    rw [Rule.ariRefineRun] at h
    split at h
    · obtain ⟨d, u, -, h⟩ := act_bind_ok h
      cases h
      exact le_refl k
    · obtain ⟨nz, u, -, h⟩ := act_bind_ok h
      rw [act_ite, act_ite] at h
      split at h
      · obtain ⟨neg, w, -, h⟩ := act_bind_ok h
        cases h
        exact le_refl k
      · split at h
        · cases h
        · exact (Nat.le_succ k).trans (ruleRefineRun_le h)

/-- The refinement loop (R360). -/
theorem refineBand_agrees {kex : Nat} {p1 : Int} : ∀ {n m k : Nat} {s : State} (blk : Block), s.block? a = some old →
    last ≤ 63 → 0 < n → last + 1 < k + n → last < k + m →
    Agrees (fun blk' t => ((), t.held a blk' o)) (refineBand a bin last kex p1 n k (s.held a blk o))
      (Rule.ariRefineBand bin last kex p1 m k blk s)
  | 0, _, _, _, _, _, _, hn, _, _ => absurd hn (lt_irrefl 0)
  | n + 1, 0, k, s, blk, _, _, _, _, hm => by
    rw [refineBand, if_neg (show ¬ k ≤ last from Nat.not_le.2 hm)]
    exact .ok blk s
  | n + 1, m + 1, k, s, blk, hold, hlast, _, hn, hm => by
    rw [refineBand, Rule.ariRefineBand]
    by_cases hk : k ≤ last
    · rw [if_pos hk, if_pos hk]
      have hrest (eob : Bool) {t : State} (ht : Aside s t) : Agrees (fun blk' t => ((), t.held a blk' o))
          ((if eob then pure () else refineRun a bin last p1 64 k >>= fun k' => refineBand a bin last kex p1 n (k' + 1))
            (t.held a blk o))
          ((if eob then pure blk else Rule.ariRefineRun bin last p1 64 k blk >>= fun p =>
            Rule.ariRefineBand bin last kex p1 m (p.1 + 1) p.2) t) := by
        have hblk := (ht.block? a).trans hold
        cases eob with
        | true => exact .ok blk t
        | false =>
          refine agrees_bind (refineRun_agrees blk hblk hk (by omega)) fun p u hu => ?_
          have hblk' := (((aside_ruleRefineRun p1 _ _ _ t).1 _ _ hu).block? a).trans hblk
          have hle := ruleRefineRun_le hu
          exact refineBand_agrees p.2 hblk' hlast (by omega) (by omega) (by omega)
      by_cases hkex : k > kex
      · rw [if_pos hkex, if_pos hkex]
        exact agrees_bind (agrees_oblivious (oblivious_arithDecode _)) fun eob t ht => hrest eob ((aside_arithDecode _ s).1 _ _ ht)
      · rw [if_neg hkex, if_neg hkex]
        exact hrest false (aside_chain.refl s)
    · rw [if_neg hk, if_neg hk]
      exact .ok blk s

end

end Sys2Proof.Machine

namespace Sys2Proof.Machine

/-! ### The arithmetic routines (R350, R356-R358, R360) -/

theorem aside_ruleZeroRun {bin : Nat → Bin} {last : Nat} : ∀ fuel k, Stays Aside (Rule.zeroRun bin last fuel k)
  | 0, _ => stays_pure aside_chain _
  | fuel + 1, _ => stays_bind aside_chain (aside_arithDecode _) fun _ => stays_ite (stays_pure aside_chain _)
      (stays_ite (stays_raise aside_chain _) (aside_ruleZeroRun fuel _))

theorem aside_ruleAriBand {c : Nat} {bin : Nat → Bin} {last : Nat} {value : Int → Act Int} (hvalue : ∀ v, Stays Aside (value v)) :
    ∀ fuel k blk, Stays Aside (Rule.ariBand c bin last value fuel k blk)
  | 0, _, _ => stays_pure aside_chain _
  | fuel + 1, k, blk => by
    refine stays_ite (stays_bind aside_chain (aside_arithDecode _) fun _ => stays_ite (stays_pure aside_chain _) ?_)
      (stays_pure aside_chain _)
    exact stays_bind aside_chain (aside_ruleZeroRun _ _) fun _ => stays_bind aside_chain (aside_decodeAcValue _ _) fun _ =>
      stays_bind aside_chain (hvalue _) fun _ => aside_ruleAriBand hvalue fuel _ _

theorem aside_ruleRefineBand {bin : Nat → Bin} {last kex : Nat} {p1 : Int} :
    ∀ fuel k blk, Stays Aside (Rule.ariRefineBand bin last kex p1 fuel k blk)
  | 0, _, _ => stays_pure aside_chain _
  | fuel + 1, k, blk => by
    have hrest (eob : Bool) : Stays Aside (if eob then pure blk else Rule.ariRefineRun bin last p1 64 k blk >>= fun p =>
        Rule.ariRefineBand bin last kex p1 fuel (p.1 + 1) p.2) :=
      stays_ite (stays_pure aside_chain _) (stays_bind aside_chain (aside_ruleRefineRun _ _ _ _) fun _ => aside_ruleRefineBand fuel _ _)
    refine stays_ite (stays_ite ?_ ?_) (stays_pure aside_chain _)
    · exact stays_bind aside_chain (aside_arithDecode _) hrest
    · exact stays_bind aside_chain (stays_pure aside_chain _) hrest

/-- The search from the band's end down. -/
theorem lastNonZero_eq (b : Block) : ∀ n,
    lastNonZero b n = ((List.range (n + 1)).reverse.find? fun k => k == 0 || vget b k 0 != 0).getD 0
  | 0 => rfl
  | n + 1 => by
    rw [List.range_succ, List.reverse_append, List.reverse_singleton, List.singleton_append, List.find?_cons, lastNonZero,
      lastNonZero_eq b n]
    by_cases h : vget b (n + 1) 0 = 0
    · simp [h]
    · rw [if_pos h, bne_iff_ne.2 h, Bool.or_true, Option.getD_some]

/-- A routine on the block in its plane, and its procedure on the block held aside and stored at the end. -/
theorem agrees_routine {s : State} {a : Address} {blk : Block} (hblk : s.block? a = some blk) {m : Act Unit} {m' : Act Block}
    (hm' : Stays Aside m')
    (h : Agrees (fun blk t => ((), t.held a blk s.sq.block)) (m (s.held a blk s.sq.block)) (m' s)) :
    Agrees (fun _ t => ((), t)) (m s) ((m' >>= setBlock a) s) := by
  have hself : s.held a blk s.sq.block = s := held_self hblk s.sq.block
  rw [hself] at h
  rw [act_bind]
  generalize m s = x at h
  cases hy : m' s with
  | error e =>
    rw [hy] at h
    cases h with
    | raise h => exact .raise h
    | fault f => exact .fault f
  | ok p =>
    obtain ⟨blk', t⟩ := p
    have hsq : t.sq = s.sq := ((hm' s).1 _ _ hy).2.2.2
    rw [hy, ← hsq] at h
    cases h
    exact .ok () (t.withBlock a blk')

section
variable {s : State} {e : McuEntry} {blk : Block} (he : s.sc.mcud[s.sc.entry]? = some e) (hblk : s.block? (s.addressOf e) = some blk)
include he hblk

theorem ariSeq_agrees : Agrees (fun _ t => ((), t)) (ariSeqAct s) (Rule.ariSeq (s.addressOf e) s) := by
  let a := s.addressOf e
  have hrule : Rule.ariSeq a s = ((do
      let diff ← decodeDcDiff a.c
      let val ← predictDc a.c diff
      let s ← get
      Rule.ariBand a.c (s.acs a.c) 63 pure 64 1 (vset blk 0 val)) >>= setBlock a) s := by
    rw [Rule.ariSeq, act_bind, act_getBlock hblk]
    simp only [bind_assoc]
    rfl
  rw [hrule, ariSeqAct, act_bind, act_currentAddress he]
  dsimp only
  have hpure (v : Int) : Stays Aside (pure v) := stays_pure aside_chain v
  refine agrees_routine hblk ?_ ?_
  · exact stays_bind aside_chain (aside_decodeDcDiff _) fun _ => stays_bind aside_chain (aside_predictDc _ _) fun _ =>
      stays_bind aside_chain (stays_get aside_chain) fun _ => aside_ruleAriBand hpure _ _ _
  refine agrees_bind (agrees_oblivious (oblivious_decodeDcDiff id _)) fun diff t ht => ?_
  refine agrees_bind (agrees_oblivious (oblivious_predictDc _ _)) fun val u hu => ?_
  have hsu := aside_chain.trans ((aside_decodeDcDiff _ s).1 _ _ ht) ((aside_predictDc _ _ t).1 _ _ hu)
  have hold {w : State} (hw : Aside u w) : w.block? a = some blk := ((aside_chain.trans hsu hw).block? a).trans hblk
  rw [act_bind, act_setCoeff_held (hold (aside_chain.refl u))]
  refine ariBand_agrees hpure (fun {w} blk' k v hw => ?_) (vset blk 0 val) (aside_chain.refl u) (le_refl 63) (by decide) (by decide)
    (by decide)
  rw [act_setCoeff_held (hold hw)]
  exact .ok v w

theorem ariAcFirst_agrees : Agrees (fun _ t => ((), t)) (ariAcFirstAct s) (Rule.ariAcFirst (s.addressOf e) s) := by
  let a := s.addressOf e
  have hse := s.sc.se.isLt
  have hrule : Rule.ariAcFirst a s = (Rule.ariBand a.c (s.acs a.c) s.sc.se.toNat (fun v => checked32 (v * 2 ^ s.sc.al.toNat)) 64
      s.sc.ss.toNat blk >>= setBlock a) s := by
    rw [Rule.ariAcFirst, act_bind, act_getBlock hblk]
    rfl
  have hmodel : ariAcFirstAct s = ariBand a (s.acs a.c) s.sc.se.toNat (storeShifted a) ariBound s.sc.ss.toNat s := by
    simp only [ariAcFirstAct, act_bind, act_currentAddress he, act_get]
    rfl
  rw [hrule, hmodel]
  have hvalue (v : Int) : Stays Aside (checked32 (v * 2 ^ s.sc.al.toNat)) := aside_checked32 _
  refine agrees_routine hblk (aside_ruleAriBand hvalue _ _ _) ?_
  refine ariBand_agrees hvalue (fun {w} blk' k v hw => ?_) blk (aside_chain.refl s) (by omega) (by decide)
    (by simp only [ariBound]; omega) (by omega)
  rw [← hw.1]
  exact storeShifted_agrees ((hw.block? a).trans hblk) blk' _ k v

theorem ariAcRefine_agrees : Agrees (fun _ t => ((), t)) (ariAcRefineAct s) (Rule.ariAcRefine (s.addressOf e) s) := by
  let a := s.addressOf e
  have hse := s.sc.se.isLt
  have hrule : Rule.ariAcRefine a s = (Rule.ariRefineBand (s.acs a.c) s.sc.se.toNat (lastNonZero blk s.sc.se.toNat)
      (2 ^ s.sc.al.toNat) 64 s.sc.ss.toNat blk >>= setBlock a) s := by
    rw [Rule.ariAcRefine, act_bind, act_getBlock hblk, lastNonZero_eq]
    rfl
  have hmodel : ariAcRefineAct s = refineBand a (s.acs a.c) s.sc.se.toNat (lastNonZero blk s.sc.se.toNat) (2 ^ s.sc.al.toNat)
      ariBound s.sc.ss.toNat s := by
    simp only [ariAcRefineAct, act_bind, act_currentAddress he, act_get, act_getBlock hblk]
    rfl
  rw [hrule, hmodel]
  exact agrees_routine hblk (aside_ruleRefineBand _ _ _) (refineBand_agrees blk hblk (by omega) (by decide)
    (by simp only [ariBound]; omega) (by omega))

/-- ARI_DC_FIRST stores the predicted value shifted by AL. -/
theorem ariDcFirstAct_ok {diff : Int} {u : State} (hdiff : decodeDcDiff (s.addressOf e).c s = .ok (diff, u))
    (hval : inInt32 (s.dcValue (s.addressOf e).c diff) = true)
    (hshift : inInt32 (s.dcValue (s.addressOf e).c diff * 2 ^ s.sc.al.toNat) = true) :
    let a := s.addressOf e
    let val := s.dcValue a.c diff
    ariDcFirstAct s = .ok ((), { u.withBlock a (vset blk 0 (val * 2 ^ s.sc.al.toNat)) with
      pr := if s.fr.ft.getLsbD 2 then u.pr else { u.pr with pred := vset u.pr.pred a.c val } }) := by
  intro a val
  have hu := (aside_decodeDcDiff _ s).1 _ _ hdiff
  have hsame : u.dcValue a.c diff = val := by
    rw [State.dcValue, hu.2.1, pred_decodeDcDiff hdiff]
    rfl
  have hpred := act_predictDc (s := u) (c := a.c) (diff := diff) (hsame.symm ▸ hval)
  rw [hsame] at hpred
  have hsc : (u.withDcValue a.c val).sc = s.sc := hu.1
  have hstore := act_storeShifted (s := u.withDcValue a.c val) ((hu.block? a).trans hblk) 0 (v := val) (by rw [hsc]; exact hshift)
  rw [hsc] at hstore
  simp only [ariDcFirstAct, act_bind, act_currentAddress he, hdiff]
  rw [hpred, ← hu.2.1]
  exact hstore

theorem ariDcRefineAct_ok {u : State} {bit : Bool} (hbit : arithDecode .fixed s = .ok (bit, u)) :
    ariDcRefineAct s = .ok ((), if bit then u.withBlock (s.addressOf e) (vset blk 0 (setBitInt (vget blk 0 0) s.sc.al.toNat)) else u) := by
  have hu := (aside_arithDecode _ s).1 _ _ hbit
  have hblk' := (hu.block? (s.addressOf e)).trans hblk
  simp only [ariDcRefineAct, act_bind, act_currentAddress he, hbit, act_get, act_getCoeff hblk', hu.1]
  cases bit
  · rfl
  · exact act_setCoeff hblk' 0 _

end

/-- Settles O46: the bands in the plane and held aside, the two DC routines by their decisions. -/
theorem ariRoutines : Obligations.AriRoutines := by
  intro d s e blk he hblk a p1
  have hseq : exec (.ariSeq d) s = runAct (Rule.ariSeq a) s := runAct_of_agrees (m := ariSeqAct) (ariSeq_agrees he hblk)
  have hfirst : exec (.ariAcFirst d) s = runAct (Rule.ariAcFirst a) s :=
    runAct_of_agrees (m := ariAcFirstAct) (ariAcFirst_agrees he hblk)
  have hrefine : exec (.ariAcRefine d) s = runAct (Rule.ariAcRefine a) s :=
    runAct_of_agrees (m := ariAcRefineAct) (ariAcRefine_agrees he hblk)
  refine ⟨hseq, hfirst, hrefine, fun t ht => hseq.trans (runAct_ok ht), fun t ht => hfirst.trans (runAct_ok ht),
    fun t ht => hrefine.trans (runAct_ok ht), ?_, fun bit u hbit => ?_⟩
  · intro diff u hdiff val hval hshift
    exact runAct_ok (ariDcFirstAct_ok he hblk hdiff hval hshift)
  · intro v
    rw [← setBitInt_eq]
    exact runAct_ok (ariDcRefineAct_ok he hblk hbit)

end Sys2Proof.Machine

namespace Sys2Proof.Machine

/-! ### Scaling to sixteen bits (R454) -/

/-- A value within `0 .. 2^P - 1` scales to one within `0 .. 65535`: the reference value is exact. -/
theorem scale16_toNat {params : Config.Params} {p v : Nat} (href : params.scale16 = .reference) (hp : 0 < p) (hv : v ≤ 2 ^ p - 1) :
    (scale16 params p v).toNat = (2 * v * 65535 + (2 ^ p - 1)) / (2 * (2 ^ p - 1)) := by
  have hm : 0 < 2 ^ p - 1 := Nat.sub_pos_of_lt (Nat.one_lt_two_pow hp.ne')
  have hfits : (2 * v * 65535 + (2 ^ p - 1)) / (2 * (2 ^ p - 1)) < 2 ^ 16 := by
    rw [Nat.div_lt_iff_lt_mul (by omega)]
    omega
  rw [scale16, href]
  exact (BitVec.toNat_ofNat _ _).trans (Nat.mod_eq_of_lt hfits)

/-- Settles O51: the quotient fits sixteen bits, and at P = 8 and P = 16 the maximum divides 65535. -/
theorem scaleToSixteenBits : Obligations.ScaleToSixteenBits := by
  intro params p v href hlo _ hv
  have hscaled := scale16_toNat href (by omega) hv
  refine ⟨hscaled, ?_, ?_⟩
  · rintro rfl
    omega
  · rintro rfl
    omega

/-! ### The range and the DC behaviour of the inverse transform (R443) -/

theorem clampInt_eq {lo hi : Int} (h : lo ≤ hi) (v : Int) : clampInt v lo hi = max lo (min v hi) := by
  unfold clampInt
  split_ifs <;> omega

/-- Entry `k` of the reference transform is the exact sum at `(k % 8, k / 8)`, rounded and shifted. -/
theorem vget_idct {params : Config.Params} (href : params.idct = .reference) (p : Nat) (differential : Bool) (f : Block) {k : Nat}
    (hk : k < 64) : vget (idct params p differential f) k 0 =
      levelShift p differential (roundDiv (idctSum (spectrum f) (k % 8) (k / 8)) (16 * 2 ^ cosPlaces)) := by
  rw [idct, href]
  exact vget_ofFn _ _ hk

/-- A common factor does not change the nearest integer of a quotient. -/
theorem roundDiv_mul_right (num : Int) (den : Nat) {c : Nat} (hc : 0 < c) : roundDiv (num * c) (den * c) = roundDiv num den := by
  have hc' : (0 : Int) < c := Int.natCast_pos.2 hc
  have hquot (n : Int) : (2 * (n * c) + den * c) / (2 * (den * c)) = (2 * n + den) / (2 * den) := by
    rw [← Int.mul_ediv_mul_of_pos_left (2 * n + den) (2 * den) hc', add_mul, mul_assoc, mul_assoc]
  simp only [roundDiv, Nat.cast_mul, ← neg_mul, hquot, mul_nonneg_iff_of_pos_right hc']

/-- The product of the two constant basis functions is 2. -/
theorem basisProduct_dc (x y : Nat) : basisProduct x y 0 0 = 2 * 2 ^ cosPlaces := by
  have hzero : cosTwice 0 = 2 * 2 ^ cosPlaces := rfl
  have hright : cosTwice 8 = 0 := rfl
  rw [show basisProduct x y 0 0 = cosTwice 8 + cosTwice 0 from rfl, hzero, hright, zero_add]

/-- The sum over the non-zero coefficients is the sum over all 64 (R442, R443). -/
theorem idctSum_spectrum (f : Block) (x y : Nat) : idctSum (spectrum f) x y =
    ((List.range 64).map fun k => vget f k 0 * basisProduct x y (naturalOf k % 8) (naturalOf k / 8)).sum := by
  rw [idctSum, spectrum]
  induction List.range 64 with
  | nil => rfl
  | cons k ks ih =>
    by_cases hk : vget f k 0 = 0
    · simp [hk, ih]
    · simp [hk, ih]

/-- The sum of a block whose only coefficient is DC is the same at every sample: `16 s = 2 dc`. -/
theorem idctSum_dc {f : Block} (hdc : ∀ k, 0 < k → vget f k 0 = 0) (x y : Nat) :
    idctSum (spectrum f) x y = vget f 0 0 * (2 * 2 ^ cosPlaces) := by
  have hnatural : naturalOf 0 = 0 := rfl
  rw [idctSum_spectrum, List.range_succ_eq_map, List.map_cons, List.sum_cons, List.map_map, List.sum_eq_zero, add_zero, hnatural,
    Nat.zero_mod, Nat.zero_div, basisProduct_dc]
  simp [hdc]

/-- The rounded sample of a block whose only coefficient is DC is `dc / 8`. -/
theorem roundDiv_idctSum_dc {f : Block} (hdc : ∀ k, 0 < k → vget f k 0 = 0) (x y : Nat) :
    roundDiv (idctSum (spectrum f) x y) (16 * 2 ^ cosPlaces) = roundDiv (vget f 0 0) 8 := by
  have hscale := roundDiv_mul_right (vget f 0 0) 8 (c := 2 * 2 ^ cosPlaces) (by positivity)
  rw [idctSum_dc hdc, ← hscale, ← mul_assoc 8]
  simp

/-- Settles O48: the products in range, the limits of the output step, and the sum of a block with DC alone. -/
theorem dequantizeAndTransform : Obligations.DequantizeAndTransform := by
  refine ⟨fun b q s h => dequant_ok h, fun params p f href _ => ?_⟩
  have hmax : (0 : Int) ≤ 2 ^ p - 1 := Int.sub_nonneg_of_le (one_le_pow₀ one_le_two)
  have hlimited (r : Int) : levelShift p false r = max 0 (min (r + 2 ^ (p - 1)) (2 ^ p - 1)) := clampInt_eq hmax _
  refine ⟨fun k hk => ?_, fun hdc k hk => ?_⟩
  · rw [vget_idct href p false f hk, hlimited]
    exact ⟨le_max_left _ _, max_le hmax (min_le_right _ _)⟩
  · intro r
    rw [vget_idct href p true f hk, vget_idct href p false f hk, roundDiv_idctSum_dc hdc]
    exact ⟨rfl, hlimited r⟩

end Sys2Proof.Machine

namespace Sys2Proof.Machine

/-! ### The 2x expansion sample by sample (R473) -/

/-- Entry `i` of a row of length `n` at twice its length: the entries themselves, and the means of neighbours between them. -/
def doubled (a : Nat → Int) (n i : Nat) : Int := if i % 2 = 0 then a (i / 2) else (a (i / 2) + a (min (i / 2 + 1) (n - 1))) / 2

theorem lget_expandRow {params : Config.Params} (href : params.expand = .reference) (row : List Int) {len i : Nat} (hi : i < len) :
    lget (expandRow params row len) i 0 = doubled (fun j => lget row j 0) row.length i := by
  simp only [lget, expandRow, href, List.getElem?_map, List.getElem?_range hi]
  rfl

theorem length_expandRow (params : Config.Params) (row : List Int) (len : Nat) : (expandRow params row len).length = len := by
  simp [expandRow]

/-- A row's entry is the plane's sample, 0 outside both. -/
theorem lget_row (s : Samples) (x y : Nat) : lget (s.row y) x 0 = s.at x y := by
  by_cases hx : x < s.w <;> simp [lget, Samples.row, Samples.at, hx]

theorem lget_col (s : Samples) (x : Nat) {y : Nat} (hy : y < s.h) : lget (s.col x) y 0 = s.at x y := by
  simp [lget, Samples.col, hy]

theorem at_expandX {params : Config.Params} (href : params.expand = .reference) (s : Samples) {w x y : Nat} (hx : x < w) (hy : y < s.h) :
    (s.expandX params w).at x y = doubled (fun i => s.at i y) s.w x := by
  have hentry : (s.expandX params w).at x y = lget (expandRow params (s.row y) w) x 0 :=
    (if_pos hx).trans (lget_flatMap_range (fun _ => length_expandRow params _ w) 0 hy hx)
  have hlen : (s.row y).length = s.w := by simp [Samples.row]
  simp only [hentry, lget_expandRow href _ hx, lget_row, hlen]

theorem doubled_congr {a b : Nat → Int} {n i : Nat} (hi : i < 2 * n) (h : ∀ j < n, a j = b j) : doubled a n i = doubled b n i := by
  rw [doubled, doubled, h _ (by omega), h _ (by omega)]

theorem at_expandY {params : Config.Params} (href : params.expand = .reference) (s : Samples) {h x y : Nat} (hx : x < s.w) (hy : y < h)
    (hh : h ≤ 2 * s.h) : (s.expandY params h).at x y = doubled (fun j => s.at x j) s.h y := by
  have hcol : lget ((List.range s.w).map fun x => expandRow params (s.col x) h) x [] = expandRow params (s.col x) h := by
    simp [lget, hx]
  have hlen : (s.col x).length = s.h := by simp [Samples.col]
  rw [Samples.expandY, Samples.at_build _ hx hy, hcol, lget_expandRow href _ hy, hlen]
  exact doubled_congr (by omega) fun j hj => lget_col s x hj

/-! ### A plane at the size of a differential frame (R473) -/

/-- The plane expanded along its axes that grow, horizontally first. -/
def Samples.enlarged (params : Config.Params) (s : Samples) (w h : Nat) : Samples :=
  let wide := if s.w < w then s.expandX params w else s
  if s.h < h then wide.expandY params h else wide

/-- Sample `(x, y)` of the plane at width `w`. -/
def Samples.wideAt (s : Samples) (w x y : Nat) : Int := if s.w < w then doubled (fun i => s.at i y) s.w x else s.at x y

/-- Sample `(x, y)` of the plane at width `w` and height `h`. -/
def Samples.enlargedAt (s : Samples) (w h x y : Nat) : Int :=
  if s.h < h then doubled (fun j => s.wideAt w x j) s.h y else s.wideAt w x y

/-- An axis keeps its size, or grows to twice the length or one less. -/
theorem axisOk_iff (old new : Nat) :
    axisOk old new = true ↔ new = old ∨ old < new ∧ (new = 2 * old ∨ new + 1 = 2 * old) := by
  simp [axisOk]

theorem at_enlarged {params : Config.Params} (href : params.expand = .reference) {s : Samples} {w h x y : Nat}
    (hw : axisOk s.w w = true) (hh : axisOk s.h h = true) (hx : x < w) (hy : y < h) :
    (s.enlarged params w h).at x y = s.enlargedAt w h x y := by
  rw [axisOk_iff] at hw hh
  have hwide (j : Nat) (hj : j < s.h) : (if s.w < w then s.expandX params w else s).at x j = s.wideAt w x j := by
    rw [Samples.wideAt]
    split_ifs
    · exact at_expandX href s hx hj
    · rfl
  have hwidth : (if s.w < w then s.expandX params w else s).w = w := by
    split_ifs
    · rfl
    · omega
  have hheight : (if s.w < w then s.expandX params w else s).h = s.h := by split_ifs <;> rfl
  rw [Samples.enlarged, Samples.enlargedAt]
  by_cases hg : s.h < h
  · rw [if_pos hg, if_pos hg, at_expandY href _ (hx.trans_eq hwidth.symm) hy (by omega), hheight]
    exact doubled_congr (by omega) hwide
  · rw [if_neg hg, if_neg hg]
    exact hwide y (by omega)

/-! ### Folding a component into ACC (R472-R474) -/

theorem Samples.at_crop (s : Samples) {w h x y : Nat} (hx : x < w) (hy : y < h) : (s.crop w h).at x y = s.at x y :=
  Samples.at_build _ hx hy

/-- The size a differential frame asks of a plane, and the EXP before it, are what R473 allows. -/
def growthFits (old : Samples) (w h : Nat) (exp : Option (Bool × Bool)) : Bool :=
  axisOk old.w w && axisOk old.h h && exp.all fun e => e.1 == decide (old.w < w) && e.2 == decide (old.h < h)

theorem growthFits_iff (old : Samples) (w h : Nat) (exp : Option (Bool × Bool)) : growthFits old w h exp = true ↔
    axisOk old.w w = true ∧ axisOk old.h h = true ∧
      ∀ e, exp = some e → (e.1 = true ↔ old.w < w) ∧ (e.2 = true ↔ old.h < h) := by
  have hnames (b : Bool) (grows : Prop) [Decidable grows] : (b == decide grows) = true ↔ (b = true ↔ grows) := by cases b <;> simp
  simp only [growthFits, Bool.and_eq_true, Option.all_eq_true, hnames, and_assoc]

/-- ACC replaced. -/
def State.withAcc (s : State) (acc : List AccPlane) : State := { s with arena := { s.arena with acc := acc } }

/-- The sums of R474: the plane at the frame's size and the residual, modulo 2^16. -/
def accumulated (params : Config.Params) (old res : Samples) : Samples :=
  Samples.build res.w res.h fun x y => ((old.enlarged params res.w res.h).at x y + res.at x y) % 65536

theorem at_accumulated {params : Config.Params} (href : params.expand = .reference) {old rs : Samples} {w h x y : Nat}
    (hw : axisOk old.w w = true) (hh : axisOk old.h h = true) (hx : x < w) (hy : y < h) :
    (accumulated params old (rs.crop w h)).at x y = (old.enlargedAt w h x y + rs.at x y) % 65536 := by
  have hsum : (accumulated params old (rs.crop w h)).at x y =
      ((old.enlarged params w h).at x y + (rs.crop w h).at x y) % 65536 := Samples.at_build _ hx hy
  rw [hsum, at_enlarged href hw hh hx hy, rs.at_crop hx hy]

theorem allocGrown_ok {grows : Prop} [Decidable grows] {s : State} {w h : Nat} (hroom : grows → s.roomFor (.accumulator w h)) :
    allocGrown (decide grows) w h s = .ok ((), if grows then s.allocated (.accumulator w h) else s) := by
  by_cases hg : grows
  · simp [allocGrown, hg, alloc_ok (hroom hg)]
  · simp [allocGrown, hg]

/-- A residual is checked against the plane of its component, then added to it. -/
theorem accumulateDiff_eq {s : State} {id : Byte} {old : Samples} (res : Samples) (hacc : findAcc s.arena.acc id = some old) :
    accumulateDiff id res s = if growthFits old res.w res.h s.fr.exp = true then
      (allocGrown (decide (old.w < res.w ∨ old.h < res.h)) res.w res.h >>= fun _ =>
        update fun t => t.withAcc (setAcc t.arena.acc id (accumulated s.params old res))) s
    else .error (.raise .formatError s) := by
  simp only [accumulateDiff, act_bind, act_get, hacc, act_orUndefined, act_require, growthFits, Bool.decide_or, accumulated,
    Samples.enlarged, State.withAcc, decide_eq_true_eq]
  cases axisOk old.w res.w && axisOk old.h res.h with
  | false => rfl
  | true =>
    cases s.fr.exp with
    | none => simp
    | some e =>
      cases hnames : e.1 == decide (old.w < res.w) && e.2 == decide (old.h < res.h) <;> simp [hnames]

/-- A residual that fits is added to the plane of its component. -/
theorem accumulateDiff_adds {s : State} {id : Byte} {old : Samples} (res : Samples) (hacc : findAcc s.arena.acc id = some old)
    (hfits : growthFits old res.w res.h s.fr.exp = true)
    (hroom : old.w < res.w ∨ old.h < res.h → s.roomFor (.accumulator res.w res.h)) :
    accumulateDiff id res s = .ok ((),
      (if old.w < res.w ∨ old.h < res.h then s.allocated (.accumulator res.w res.h) else s).withAcc
        (setAcc s.arena.acc id (accumulated s.params old res))) := by
  have hkept : (if old.w < res.w ∨ old.h < res.h then s.allocated (.accumulator res.w res.h) else s).arena.acc = s.arena.acc := by
    split_ifs <;> rfl
  rw [accumulateDiff_eq res hacc, if_pos hfits, act_bind, allocGrown_ok hroom]
  simp only [act_update, hkept]

theorem accumulateComp_opens {s : State} {c : Nat} {rs : Samples} (hrs : vget s.arena.rs c none = some rs)
    (hd : s.fr.isDifferential = false) (hroom : s.roomFor (.accumulator (s.fr.xc c) (s.fr.yc c))) :
    accumulateComp c s = .ok ((), (s.allocated (.accumulator (s.fr.xc c) (s.fr.yc c))).withAcc
      (s.arena.acc ++ [⟨(s.fr.compAt c).id, (rs.crop (s.fr.xc c) (s.fr.yc c)).mapAll (· % 65536)⟩])) := by
  simp only [accumulateComp, act_bind, act_get, hrs, act_orUndefined, hd, Bool.false_eq_true, if_false, alloc_ok hroom, act_update]
  rfl

theorem accumulateComp_differential {s : State} {c : Nat} {rs : Samples} (hrs : vget s.arena.rs c none = some rs)
    (hd : s.fr.isDifferential = true) :
    accumulateComp c s = accumulateDiff (s.fr.compAt c).id (rs.crop (s.fr.xc c) (s.fr.yc c)) s := by
  simp only [accumulateComp, act_bind, act_get, hrs, act_orUndefined, hd, if_true]

/-- Settles O50: the plane opened, the check of R473, and the sums over the plane expanded axis by axis. -/
theorem hierarchicalAccumulation : Obligations.HierarchicalAccumulation := by
  intro s c rs hrs id w h
  refine ⟨fun hd hroom => ?_, fun old hd hacc => ?_⟩
  · intro t
    refine ⟨(rs.crop w h).mapAll (· % 65536), rfl, rfl, fun x hx y hy => ?_, accumulateComp_opens hrs hd hroom⟩
    rw [Samples.crop, build_mapAll, Samples.at_build _ hx hy]
  · intro grown fits
    have hfits : growthFits old w h s.fr.exp = true ↔ fits := by
      rw [growthFits_iff, axisOk_iff, axisOk_iff]
    have hdiff : accumulateComp c s = accumulateDiff id (rs.crop w h) s := accumulateComp_differential hrs hd
    refine ⟨fun hmisfit => ?_, fun hfit href hroom => ?_⟩
    · rw [hdiff, accumulateDiff_eq _ hacc]
      exact if_neg (mt hfits.1 hmisfit)
    · intro t wide full
      obtain ⟨hw, hh, -⟩ := (growthFits_iff old w h s.fr.exp).1 (hfits.2 hfit)
      exact ⟨accumulated s.params old (rs.crop w h), rfl, rfl, fun x hx y hy => at_accumulated href hw hh hx hy,
        hdiff.trans (accumulateDiff_adds (rs.crop w h) hacc (hfits.2 hfit) hroom)⟩

end Sys2Proof.Machine

namespace Sys2Proof.Machine

/-! ### The first step of an encode (R490) -/

theorem step_encRead {s : State} (hs : s.script = []) (hp : s.sq.phase = .encRead) (hu : s.undisturbed) :
    step s = runAct encReadAct s := by
  have hfetch : fetch s = .ok (none, s) := by simp [fetch, hp]
  rw [step_unfetched hs hu hfetch, hp]
  rfl

theorem encReadAct_zeroSize {s : State} (h : s.regs.imgWidth.toNat % 65536 = 0 ∨ s.regs.imgHeight.toNat % 65536 = 0) :
    encReadAct s = .error (.raise .formatError s) := by
  simp only [encReadAct, act_bind, act_get, act_ite, if_pos h, act_raise]

theorem encReadAct_short {s : State} (hw : s.regs.imgWidth.toNat % 65536 ≠ 0) (hh : s.regs.imgHeight.toNat % 65536 ≠ 0)
    (hlen : s.inLen < 8 * (s.regs.imgWidth.toNat % 65536) * (s.regs.imgHeight.toNat % 65536)) :
    encReadAct s = .error (.raise .imageDataError s) := by
  simp only [encReadAct, act_bind, act_get, act_ite, if_neg (not_or.2 ⟨hw, hh⟩), if_pos hlen, act_raise]

/-! ### Bytes written at OPOS (R510, R513) -/

/-- The state after bytes are written at OPOS: they stand there, and OPOS is past them. -/
def State.emit (s : State) (bytes : List Byte) : State :=
  { s.store (s.outAddr s.enc.opos) bytes with enc := { s.enc with opos := s.enc.opos + bytes.length } }

@[simp] theorem State.emit_outLen (s : State) (bytes : List Byte) : (s.emit bytes).outLen = s.outLen := rfl

@[simp] theorem State.emit_opos (s : State) (bytes : List Byte) : (s.emit bytes).enc.opos = s.enc.opos + bytes.length := rfl

/-- Bytes written one behind the other stand as if written at once. -/
theorem State.emit_emit (s : State) (b c : Byte) : (s.emit [b]).emit [c] = s.emit [b, c] := rfl

theorem putByte_full {s : State} (b : Byte) (h : s.outLen ≤ s.enc.opos) : putByte b s = .error (.raise .outOfMemory s) := by
  simp only [putByte, memWrite1, act_bind, act_get, act_ite, if_pos (Nat.lt_succ_of_le h), act_raise]

theorem putByte_ok {s : State} (b : Byte) (h : s.enc.opos < s.outLen) : putByte b s = .ok ((), s.emit [b]) := by
  simp only [putByte, memWrite1, act_bind, act_get, act_ite, if_neg (Nat.not_lt.2 h), act_update]
  rfl

theorem putEntropyByte_full {s : State} (b : Byte) (h : s.outLen ≤ s.enc.opos) :
    putEntropyByte b s = .error (.raise .outOfMemory s) := by
  simp only [putEntropyByte, act_bind, putByte_full b h]

theorem putEntropyByte_plain {s : State} {b : Byte} (hb : b ≠ 0xFF) (h : s.enc.opos < s.outLen) :
    putEntropyByte b s = .ok ((), s.emit [b]) := by
  simp only [putEntropyByte, act_bind, putByte_ok b h, if_neg hb, act_pure]

/-- Behind a 0xFF the stuffed byte is written, under the check of its own place. -/
theorem putEntropyByte_stuffed {s : State} (h : s.enc.opos < s.outLen) : putEntropyByte 0xFF s = putByte 0x00 (s.emit [0xFF]) := by
  simp only [putEntropyByte, act_bind, putByte_ok 0xFF h, if_true]

/-- Settles O53: the two checks that come first in the reading step, then the byte writer by the places left for its one or two bytes. -/
theorem encoderChecksAndStuffing : Obligations.EncoderChecksAndStuffing := by
  refine ⟨fun s hs hp hu => ?_, fun s b => ⟨putEntropyByte_full b, putEntropyByte_plain, fun hlast => ?_, fun hroom => ?_⟩⟩
  · rw [step_encRead hs hp hu]
    exact ⟨fun hzero => runAct_raise (encReadAct_zeroSize hzero), fun hw hh hlen => runAct_raise (encReadAct_short hw hh hlen)⟩
  · have hfull : (s.emit [0xFF]).outLen ≤ (s.emit [0xFF]).enc.opos := by simp [hlast]
    rw [putEntropyByte_stuffed (by omega)]
    exact putByte_full 0x00 hfull
  · have hfits : (s.emit [0xFF]).enc.opos < (s.emit [0xFF]).outLen := by simpa using hroom
    rw [putEntropyByte_stuffed (by omega), putByte_ok 0x00 hfits, State.emit_emit]
    rfl

end Sys2Proof.Machine

namespace Sys2Proof.Machine

/-! ### The write that starts an operation (R582) -/

theorem lowByte_getLsbD (v : Word) {k : Nat} (hk : k < 8) : (BitVec.ofNat 8 v.toNat).getLsbD k = v.getLsbD k := by
  rw [BitVec.getLsbD_ofNat, BitVec.testBit_toNat]
  simp [hk]

/-- A value written to CTRL is a command where its bit 0 is set, with OP and IRQ_EN its bits 1 and 2 (R582). -/
theorem decodeInstr_ctrl_word (v : Word) : decodeInstr .ctrl (bytesLE 4 v.toNat) =
    if v.getLsbD 0 then some (if v.getLsbD 1 then .encode (v.getLsbD 2) else .decode (v.getLsbD 2)) else none := by
  have hcode : decodeCtrl (BitVec.ofNat 8 v.toNat) = if v.getLsbD 0 then
      .ok (if v.getLsbD 1 then .encode (v.getLsbD 2) else .decode (v.getLsbD 2)) else .error .startClear := by
    rw [decodeCtrl, lowByte_getLsbD v (by decide), lowByte_getLsbD v (by decide), lowByte_getLsbD v (by decide)]
  simp only [decodeInstr, decode, bytesLE, hcode]
  cases v.getLsbD 0 <;> rfl

/-- A command is START with its OP (R582). -/
theorem exec_command (op en : Bool) (s : State) : exec (if op then .encode en else .decode en) s = .next (s.start op en) := by
  cases op <;> rfl

theorem step_start {s : State} {v : Word} {rest : List HostAct} (h : s.script = .write s.params.lpjBase 4 v :: rest)
    (hstart : v.getLsbD 0 = true) :
    step s = .next (State.start { s with script := rest } (v.getLsbD 1) (v.getLsbD 2)) := by
  rw [step_command h ((decodeInstr_ctrl_word v).trans (if_pos hstart)), exec_command]

/-- A write to CTRL without bit 0 is a register write (R32). -/
theorem step_write_ctrl {s : State} {v : Word} {rest : List HostAct} (h : s.script = .write s.params.lpjBase 4 v :: rest)
    (hstart : v.getLsbD 0 = false) :
    step s = .next { s with script := rest, regs := s.regs.writeWord s.busy 0 v } := by
  have hnone : s.startWord (.write s.params.lpjBase 4 v) = none := by
    simp only [State.startWord, decodeInstr_ctrl_word, hstart, Bool.false_eq_true, if_false, ite_self]
  have hwrite := hostWrite_register (s := { s with script := rest }) (regOffset_base s) rfl v
  simp only [step, stepOf, h, hnone]
  exact congrArg _ hwrite

/-- CTRL reads back START 0, OP and IRQ_EN (R32). -/
theorem ctrlWord_bits (op en : Bool) : (ctrlWord op en).getLsbD 0 = false ∧ (ctrlWord op en).getLsbD 1 = op ∧
    (ctrlWord op en).getLsbD 2 = en := by
  cases op <;> cases en <;> exact ⟨rfl, rfl, rfl⟩

theorem State.accept_busy (s : State) (op en : Bool) : (s.accept op en).busy = true := by
  simp [State.busy, HostRegs.start]

/-- Settles O13: a command when idle is START, any other value a register write; while BUSY either is ignored. -/
theorem startAcceptance : Obligations.StartAcceptance := by
  intro s v rest h
  obtain ⟨hignored, -⟩ := busyWritesAreIgnored s s.params.lpjBase 0 rest (regOffset_base s) rfl
  refine ⟨fun hb => hignored v hb (by decide) h, fun hb hstart => ?_, fun hb hstart => ?_, fun op en => ?_⟩
  · rw [step_start h hstart, State.start_idle (s := { s with script := rest }) hb]
  · rw [step_write_ctrl h hstart, hb]
    rfl
  · obtain ⟨hstart, hop, hen⟩ := ctrlWord_bits op en
    exact ⟨hop, hen, s.accept_busy op en, hstart, hstart, hop, hen⟩

end Sys2Proof.Machine

namespace Sys2Proof.Machine

/-! ### The hardware reset (R580, R581) -/

/-- The register values of R32 after reset: all 0 but EXIF_OFF. -/
theorem word_reset : ∀ k < 16, HostRegs.reset.word k = if k = 13 then 0xFFFFFFFF else 0 := by decide

/-- An idle engine that finds no host action and no breach changes nothing. -/
theorem step_idle {s : State} (hs : s.script = []) (hu : s.undisturbed) (hp : s.sq.phase = .idle) : step s = .next s := by
  rw [step_unfetched hs hu (fetch_idle hp), hp]
  rfl

theorem step_hardReset {s : State} {rest : List HostAct} (h : s.script = .reset :: rest) :
    step s = .next (State.hardReset { s with script := rest }) := by
  simp only [step, stepOf, h]
  rfl

theorem State.hardReset_mem_idle {s : State} (hb : s.busy = false) : s.hardReset.mem = s.mem :=
  if_neg (ne_true_of_eq_false hb)

theorem State.hardReset_mem_busy {s : State} (hb : s.busy = true) :
    s.hardReset.mem = (s.mem.forget (s.outAddr 0) s.outLen).forget s.regs.scrBase.toNat s.regs.scrLen.toNat :=
  if_pos hb

/-- An operation abandoned leaves the output buffer and the arena unspecified (R581). -/
theorem State.hardReset_unknown {s : State} (hw : s.mem.wf = true) (hb : s.busy = true) {a : Nat}
    (h : s.inOutput a = true ∨ s.inArena a = true) : s.hardReset.mem.unknown a = true := by
  rw [State.hardReset_mem_busy hb]
  refine Memory.unknown_forget_of (Memory.forget_wf hw _ _) ?_
  rcases h with ho | ha
  · exact .inr (Memory.unknown_forget_of hw (.inl ((s.inOutput_iff a).1 ho)))
  · exact .inl ((s.inArena_iff a).1 ha)

/-- An operation abandoned leaves every other byte (R581). -/
theorem State.hardReset_outside {s : State} (hw : s.mem.wf = true) (hb : s.busy = true) {a : Nat} (ho : s.inOutput a = false)
    (ha : s.inArena a = false) :
    s.hardReset.mem.unknown a = s.mem.unknown a ∧ s.hardReset.mem.read a = s.mem.read a := by
  obtain ⟨hread, hunknown⟩ := Memory.forget_outside hw (base := s.outAddr 0) (len := s.outLen) (c := a)
    (by simp [← State.inOutput_iff, ho])
  obtain ⟨hread', hunknown'⟩ := Memory.forget_outside (Memory.forget_wf hw (s.outAddr 0) s.outLen)
    (base := s.regs.scrBase.toNat) (len := s.regs.scrLen.toNat) (c := a) (by simp [← State.inArena_iff, ha])
  rw [State.hardReset_mem_busy hb]
  exact ⟨hunknown'.trans hunknown, hread'.trans hread⟩

/-- Settles O10: the registers of R32 and the idle step; then any state, memory by what the two forgotten ranges cover. -/
theorem hardwareReset : Obligations.HardwareReset := by
  refine ⟨⟨word_reset, rfl, rfl, rfl, rfl, rfl, step_idle rfl rfl rfl⟩, fun s rest hw h => ?_⟩
  exact ⟨_, step_hardReset h, rfl, rfl, rfl, rfl, rfl, rfl, rfl, State.hardReset_mem_idle (s := { s with script := rest }),
    fun hb a => ⟨State.hardReset_unknown (s := { s with script := rest }) hw hb,
      State.hardReset_outside (s := { s with script := rest }) hw hb⟩⟩

end Sys2Proof.Machine
